-- ==== Sys2Proof/Word.lean ====
section
/-! DEFINITION. The words the BFC handles: bytes, nibbles, the 16-bit event word, and a frame as the sequence of its bytes (spec/00_scope.md R9, R11). -/

namespace Sys2Proof

/-- A byte (00_scope.md R7: the byte width is 8 bits). -/
abbrev Byte := BitVec 8

/-- A nibble, such as the length nibble or the auxiliary nibble of 30_encoding.md R60. -/
abbrev Nibble := BitVec 4

/-- The 16-bit event word E of 30_encoding.md R70. -/
abbrev EventWord := BitVec 16

/-- A frame: one complete protocol message as raw bytes, first byte on the wire first (00_scope.md R11, 20_memory.md R44). -/
abbrev Frame := List Byte

end Sys2Proof
end

