-- ==== Sys2Proof/Config.lean ====
section
/-! DEFINITION. What an implementation of the BFC fixes and the spec leaves open: the integrator's match predicates and the set of known key codes. Each is opaque: nothing in Lean can evaluate it, so a statement about it holds for every choice. -/

namespace Sys2Proof.Config

/-- MATCH_CAL of an integrator that supplies one (41_dispatcher.md R124, 43_codecs.md R186); used only where the registry selects it. DESIGN CHOICE (log 14). -/
opaque matchCal : Frame → Bool

/-- MATCH_DEADBAND of an integrator that supplies one (43_codecs.md R188). DESIGN CHOICE (log 14). -/
opaque matchDeadband : Frame → Bool

/-- MATCH_APWS of an integrator that supplies one (43_codecs.md R197). DESIGN CHOICE (log 14). -/
opaque matchApws : Frame → Bool

/-- MATCH_CCW, which the spec leaves OPEN with no default (43_codecs.md R193). DESIGN CHOICE (log 15). -/
opaque matchCcw : Frame → Bool

/-- Membership in KNOWN_KEYCODES, which the spec leaves OPEN with no default (43_codecs.md R176). DESIGN CHOICE (log 16). -/
opaque knownKeycode : Byte → Bool

end Sys2Proof.Config
end

