-- ==== Sys2Proof/Syntax.lean ====
section
/-! DEFINITION. The message kinds and the ONE inductive of instructions: a constructor for every row of spec/opcode_table.json. -/

namespace Sys2Proof

/-- The twelve message kinds, in registration order (10_state.md R24). -/
inductive Kind where
  | headingCourse
  | windAngle
  | windSpeed
  | keystroke
  | waypointName
  | navToWaypoint
  | calibration
  | deadband
  | lamp
  | stw
  | ccWarnings
  | apWindStatus
deriving DecidableEq, Repr

/-- The instructions of the BFC (00_scope.md R6): the input events, the decode operation a frame header selects, the
encode operation an ENCODE event selects, and the reserved event codes. A decode instruction carries the whole frame
(30_encoding.md R60: the frame is its encoding). -/
inductive Instr where
  /-- NOP (R106). -/
  | nop
  /-- BYTE_IN with its DATA byte (R101). -/
  | byteIn (data : Byte)
  /-- SOURCE_CLOSED (R104). -/
  | sourceClosed
  /-- CANCEL (R105). -/
  | cancel
  /-- ENCODE with its KIND field (R200). The decoder gives it for KIND 12 to 15; the ENC rows refine KIND 0 to 11. -/
  | encode (kind : Nibble)
  /-- DECODE.HEADING_COURSE (R162). -/
  | decodeHeadingCourse (frame : Frame)
  /-- DECODE.WIND_ANGLE (R165). -/
  | decodeWindAngle (frame : Frame)
  /-- DECODE.WIND_SPEED (R168). -/
  | decodeWindSpeed (frame : Frame)
  /-- DECODE.KEYSTROKE (R173). -/
  | decodeKeystroke (frame : Frame)
  /-- DECODE.WAYPOINT_NAME (R179). -/
  | decodeWaypointName (frame : Frame)
  /-- DECODE.NAV_TO_WAYPOINT (R183). -/
  | decodeNavToWaypoint (frame : Frame)
  /-- DECODE.CALIBRATION (R186). -/
  | decodeCalibration (frame : Frame)
  /-- DECODE.DEADBAND (R188). -/
  | decodeDeadband (frame : Frame)
  /-- DECODE.LAMP (R191). -/
  | decodeLamp (frame : Frame)
  /-- DECODE.STW (R195). -/
  | decodeStw (frame : Frame)
  /-- DECODE.CC_WARNINGS (R193). -/
  | decodeCcWarnings (frame : Frame)
  /-- DECODE.AP_WIND_STATUS (R197). -/
  | decodeApWindStatus (frame : Frame)
  /-- ENC.HEADING_COURSE (R163). -/
  | encHeadingCourse
  /-- ENC.WIND_ANGLE (R166). -/
  | encWindAngle
  /-- ENC.WIND_SPEED (R170). -/
  | encWindSpeed
  /-- ENC.KEYSTROKE (R174). -/
  | encKeystroke
  /-- ENC.WAYPOINT_NAME (R178). -/
  | encWaypointName
  /-- ENC.NAV_TO_WAYPOINT (R185). -/
  | encNavToWaypoint
  /-- ENC.CALIBRATION (R187). -/
  | encCalibration
  /-- ENC.DEADBAND (R189). -/
  | encDeadband
  /-- ENC.LAMP (R192). -/
  | encLamp
  /-- ENC.STW (R196). -/
  | encStw
  /-- ENC.CC_WARNINGS (R194). -/
  | encCcWarnings
  /-- ENC.AP_WIND_STATUS (R198). -/
  | encApWindStatus
  /-- ILLEGAL.OP5, a reserved OP with its KIND and DATA fields (R73, R305). -/
  | illegalOp5 (kind : Nibble) (data : Byte)
  /-- ILLEGAL.OP6 (R305). -/
  | illegalOp6 (kind : Nibble) (data : Byte)
  /-- ILLEGAL.OP7 (R305). -/
  | illegalOp7 (kind : Nibble) (data : Byte)
  /-- ILLEGAL.OP8 (R305). -/
  | illegalOp8 (kind : Nibble) (data : Byte)
  /-- ILLEGAL.OP9 (R305). -/
  | illegalOp9 (kind : Nibble) (data : Byte)
  /-- ILLEGAL.OPA (R305). -/
  | illegalOpA (kind : Nibble) (data : Byte)
  /-- ILLEGAL.OPB (R305). -/
  | illegalOpB (kind : Nibble) (data : Byte)
  /-- ILLEGAL.OPC (R305). -/
  | illegalOpC (kind : Nibble) (data : Byte)
  /-- ILLEGAL.OPD (R305). -/
  | illegalOpD (kind : Nibble) (data : Byte)
  /-- ILLEGAL.OPE (R305). -/
  | illegalOpE (kind : Nibble) (data : Byte)
  /-- ILLEGAL.OPF (R305). -/
  | illegalOpF (kind : Nibble) (data : Byte)
deriving DecidableEq, Repr

end Sys2Proof
end

