-- ==== Sys2Proof/Machine/Registry.lean ====
section
/-! DEFINITION. The Descriptor Registry: the parameters a build of the BFC fixes, held as plain data, their defaults, and which of them are legal (spec/00_scope.md R8, spec/10_state.md R24, R39). -/

namespace Sys2Proof

/-- The kinds in registration order, which is ascending kind id (41_dispatcher.md R121). -/
def Kind.all : List Kind :=
  [.headingCourse, .windAngle, .windSpeed, .keystroke, .waypointName, .navToWaypoint, .calibration, .deadband, .lamp,
    .stw, .ccWarnings, .apWindStatus]

/-- The kind id (10_state.md R24). -/
def Kind.id : Kind → Nat
  | .headingCourse => 0
  | .windAngle => 1
  | .windSpeed => 2
  | .keystroke => 3
  | .waypointName => 4
  | .navToWaypoint => 5
  | .calibration => 6
  | .deadband => 7
  | .lamp => 8
  | .stw => 9
  | .ccWarnings => 10
  | .apWindStatus => 11

/-- The kind of a KIND field; none for 12 to 15, which no kind has (30_encoding.md R74). -/
def Kind.ofId (n : Nibble) : Option Kind := Kind.all[n.toNat]?

/-- The kinds from k on, in registration order. -/
def Kind.fromOn (k : Kind) : List Kind := Kind.all.drop k.id

namespace Machine

/-- Which predicate a kind with a parameter MATCH uses: the default `true`, or the integrator's own (41_dispatcher.md R124). -/
inductive MatchParam where
  | always
  | integrator
deriving DecidableEq, Repr

/-- The place of a contiguous field in a navigation frame: its byte, and the number of its lowest bit there. DESIGN CHOICE
(log 27): every place is admitted, one from which the field runs past bit 7 too. -/
structure FieldPos where
  byte : Fin 9
  low : Fin 8
deriving DecidableEq, Repr

/-- NAV_LAYOUT: the position table of 30_encoding.md R69, one field per row of the table. The flag bits are bit numbers
in the flags byte. The complement stands in the final byte and is no parameter (43_codecs.md R182). -/
structure NavLayout where
  /-- XTE[3:0]. -/
  xteLow : FieldPos
  /-- XTE[11:4]. -/
  xteHigh : FieldPos
  /-- BRG_Q, two bits. -/
  bearingQuadrant : FieldPos
  /-- RSV3, two bits. -/
  reserved3 : FieldPos
  /-- BRG_LO[3:0]. -/
  bearingLow : FieldPos
  /-- BRG_LO[7:4]. -/
  bearingHigh : FieldPos
  /-- DIST[3:0]. -/
  distLow : FieldPos
  /-- DIST[11:4]. -/
  distHigh : FieldPos
  /-- The flags byte. -/
  flags : Fin 9
  /-- RSV7, a whole byte. -/
  reserved7 : Fin 9
  xtePresent : Fin 8
  bearingPresent : Fin 8
  distPresent : Fin 8
  xteBig : Fin 8
  distScale : Fin 8
  steerRight : Fin 8
  /-- The flag bits without a meaning, which DIAG reports (43_codecs.md R184). DESIGN CHOICE (log 25): a parameter of its
  own, which neither the places of the flag bits nor Registry.legal constrain. -/
  unrecognised : Byte
deriving DecidableEq, Repr

/-- The registry parameters: every "parameter" cell of the table of 10_state.md R24, and NAV_LAYOUT. The registry is
fixed when the block is built, and no event writes it. -/
structure Registry where
  cmdHeadingCourse : Byte
  lenHeadingCourse : Nat
  cmdKeystroke : Byte
  lenKeystroke : Nat
  cmdWaypointName : Byte
  cmdNavToWaypoint : Byte
  lenNavToWaypoint : Nat
  cmdCalibration : Byte
  lenCalibration : Nat
  cmdDeadband : Byte
  lenDeadband : Nat
  cmdCcWarnings : Byte
  lenCcWarnings : Nat
  matchCal : MatchParam
  matchDeadband : MatchParam
  matchApws : MatchParam
  nav : NavLayout
deriving DecidableEq, Repr

/-- The default NAV_LAYOUT, the table of 30_encoding.md R69. PRESUMED: the spec marks these positions as general
knowledge (log 17). -/
def defaultNavLayout : NavLayout where
  xteLow := ⟨1, 4⟩
  xteHigh := ⟨2, 0⟩
  bearingQuadrant := ⟨3, 0⟩
  reserved3 := ⟨3, 2⟩
  bearingLow := ⟨3, 4⟩
  bearingHigh := ⟨4, 0⟩
  distLow := ⟨4, 4⟩
  distHigh := ⟨5, 0⟩
  flags := 6
  reserved7 := 7
  xtePresent := 0
  bearingPresent := 1
  distPresent := 2
  xteBig := 3
  distScale := 4
  steerRight := 6
  unrecognised := 0xA0

/-- The defaults of 10_state.md R24. PRESUMED: the spec marks these command bytes and lengths as general knowledge
(log 13). -/
def defaultRegistry : Registry where
  cmdHeadingCourse := 0x84
  lenHeadingCourse := 9
  cmdKeystroke := 0x86
  lenKeystroke := 4
  cmdWaypointName := 0x82
  cmdNavToWaypoint := 0x85
  lenNavToWaypoint := 9
  cmdCalibration := 0x88
  lenCalibration := 6
  cmdDeadband := 0x87
  lenDeadband := 3
  cmdCcWarnings := 0x83
  lenCcWarnings := 10
  matchCal := .always
  matchDeadband := .always
  matchApws := .always
  nav := defaultNavLayout

/-- CMD_k: a parameter, or the value the source fixes (00_scope.md R8). -/
def Registry.cmd (r : Registry) : Kind → Byte
  | .headingCourse => r.cmdHeadingCourse
  | .windAngle => 0x10
  | .windSpeed => 0x11
  | .keystroke => r.cmdKeystroke
  | .waypointName => r.cmdWaypointName
  | .navToWaypoint => r.cmdNavToWaypoint
  | .calibration => r.cmdCalibration
  | .deadband => r.cmdDeadband
  | .lamp => 0x30
  | .stw => 0x20
  | .ccWarnings => r.cmdCcWarnings
  | .apWindStatus => 0x11

/-- LEN_k: a parameter, or the value the source fixes (00_scope.md R8). -/
def Registry.len (r : Registry) : Kind → Nat
  | .headingCourse => r.lenHeadingCourse
  | .windAngle => 4
  | .windSpeed => 4
  | .keystroke => r.lenKeystroke
  | .waypointName => 8
  | .navToWaypoint => r.lenNavToWaypoint
  | .calibration => r.lenCalibration
  | .deadband => r.lenDeadband
  | .lamp => 3
  | .stw => 4
  | .ccWarnings => r.lenCcWarnings
  | .apWindStatus => 3

/-- A length a frame can have: 3 to 18 bytes (00_scope.md R7, R8). -/
def isFrameLength (n : Nat) : Bool := decide (3 ≤ n) && decide (n ≤ 18)

/-- A legal registry: the constraints of 10_state.md R39, and LEN_k in 3..18 as 00_scope.md R8 has it. -/
def Registry.legal (r : Registry) : Bool :=
  decide (4 ≤ r.lenHeadingCourse) && decide (4 ≤ r.lenKeystroke) && decide (r.lenNavToWaypoint = 9)
    && isFrameLength r.lenHeadingCourse && isFrameLength r.lenKeystroke && isFrameLength r.lenCalibration
    && isFrameLength r.lenDeadband && isFrameLength r.lenCcWarnings

/-- Whether kind k is a candidate for a frame: its command byte and its length are the frame's (41_dispatcher.md R120). -/
def Registry.isCandidate (r : Registry) (f : Frame) (k : Kind) : Bool :=
  decide (f.head? = some (r.cmd k)) && decide (f.length = r.len k)

end Machine

end Sys2Proof
end

