-- ==== Sys2Proof/Machine/Operands.lean ====
section
/-! DEFINITION. The bit-packing helpers of spec/42_bit_helpers.md, and reading a byte or a field of a frame. All values are unsigned (spec/00_scope.md R9). -/

namespace Sys2Proof.Machine

/-- f[i]. Only an index inside the frame is ever asked for: Classify.lean stops on a frame too short for a candidate's
decoder before any byte is read, so the 0 of an index beyond it reaches no state. -/
def byteAt (f : Frame) (i : Nat) : Byte := f.getD i 0

/-- BITCOUNT2 (R140): none outside the domain 0x0, 0x4, 0x8, 0xC, which is the helper-domain fault. -/
def bitcount2 (x : Nibble) : Option (BitVec 2) :=
  if x = 0x0 then some 0
  else if x = 0x4 then some 1
  else if x = 0x8 then some 1
  else if x = 0xC then some 2
  else none

/-- LENNIB (R141). -/
def lennib (b : Byte) : Nibble := (b &&& 0x0F).setWidth 4

/-- FRAMELEN (R141): the expected length, 3 to 18. -/
def framelen (b : Byte) : BitVec 5 := (lennib b).setWidth 5 + 3

/-- AUXNIB (R142). -/
def auxnib (b : Byte) : Nibble := (b >>> 4).setWidth 4

/-- U16BE (R143). -/
def u16be (hi lo : Byte) : BitVec 16 := (hi.setWidth 16 <<< 8) ||| lo.setWidth 16

/-- SPLIT16 (R143): high byte, low byte. -/
def split16 (v : BitVec 16) : Byte × Byte := ((v >>> 8).setWidth 8, (v &&& 0xFF).setWidth 8)

/-- COMPL (R144), the sum computed over integers. -/
def compl8 (a b : Byte) : Bool := decide (a.toNat + b.toNat = 0xFF)

/-- NOT8 (R144). -/
def not8 (a : Byte) : Byte := 0xFF - a

/-- HEADING (R145): degrees, none where BITCOUNT2 is outside its domain. -/
def heading (u : Nibble) (vw : Byte) : Option (BitVec 9) :=
  (bitcount2 (u &&& 0xC)).map fun extra =>
    (u &&& 0x3).setWidth 9 * 90 + (vw &&& 0x3F).setWidth 9 * 2 + extra.setWidth 9

/-- COURSEHALF (R146): half-degrees. -/
def coursehalf (vw x : Byte) : BitVec 10 := (vw >>> 6).setWidth 10 * 180 + x.setWidth 10

/-- PACK6x4 (R147). The bit order is the spec's from general knowledge: PRESUMED (log 20). -/
def pack6x4 (c0 c1 c2 c3 : BitVec 6) : Byte × Byte × Byte :=
  let w : BitVec 24 :=
    c0.setWidth 24 ||| (c1.setWidth 24 <<< 6) ||| (c2.setWidth 24 <<< 12) ||| (c3.setWidth 24 <<< 18)
  (w.extractLsb' 0 8, w.extractLsb' 8 8, w.extractLsb' 16 8)

/-- UNPACK6x4 (R147), the inverse of PACK6x4. -/
def unpack6x4 (x y z : Byte) : BitVec 6 × BitVec 6 × BitVec 6 × BitVec 6 :=
  let w : BitVec 24 := x.setWidth 24 ||| (y.setWidth 24 <<< 8) ||| (z.setWidth 24 <<< 16)
  (w.extractLsb' 0 6, w.extractLsb' 6 6, w.extractLsb' 12 6, w.extractLsb' 18 6)

/-- The uppercase form of a character code: only ASCII a to z changes (R148). -/
def uppercase (ch : Byte) : Byte := if 0x61 ≤ ch ∧ ch ≤ 0x7A then ch - 0x20 else ch

/-- CHAR6 (R148): out-of-range characters encode as '0', which is code 0. -/
def char6 (ch : Byte) : BitVec 6 :=
  if 0x30 ≤ uppercase ch ∧ uppercase ch ≤ 0x6F then (uppercase ch - 0x30).setWidth 6 else 0

/-- ASCII6 (R149). -/
def ascii6 (c : BitVec 6) : Byte := c.setWidth 8 + 0x30

/-- The result of HEADSPLIT: the quadrant, the bits BITCOUNT2 counts, and the heading in 2-degree steps (R64, R150). -/
structure HeadingParts where
  quadrant : BitVec 2
  countBits : BitVec 2
  steps : BitVec 6
deriving DecidableEq, Repr

/-- HEADSPLIT (R150), for a heading in 0..359. -/
def headsplit (h : BitVec 9) : HeadingParts where
  quadrant := (h / 90).setWidth 2
  countBits := if h % 90 % 2 = 1 then 0b01 else 0b00
  steps := (h % 90 / 2).setWidth 6

/-- u, the attribute byte's high nibble, of a split heading (R150). -/
def HeadingParts.nibble (p : HeadingParts) : Nibble := (p.countBits.setWidth 4 <<< 2) ||| p.quadrant.setWidth 4

/-- U12 (R151). -/
def u12 (hi : Byte) (lo : Nibble) : BitVec 12 := (hi.setWidth 12 <<< 4) ||| lo.setWidth 12

/-- The attribute byte: the auxiliary nibble above the length nibble (R60), the length nibble being length − 3. -/
def attributeByte (aux : Nibble) (length : Nat) : Byte :=
  (aux.setWidth 8 <<< 4) ||| (BitVec.ofNat 4 (length - 3)).setWidth 8

/-- A field of w bits at its place in a navigation frame (R69). DESIGN CHOICE (log 27): which places a NAV_LAYOUT may give
the spec leaves open (43_codecs.md R182), and a field that runs past bit 7 of its byte reads zeros for the bits beyond. -/
def navField (f : Frame) (p : FieldPos) (w : Nat) : BitVec w := (byteAt f p.byte >>> p.low.val).setWidth w

/-- A frame is whole: it has an attribute byte, and as many bytes as that announces (30_encoding.md R60, R61). -/
def wholeFrame (f : Frame) : Bool :=
  decide (2 ≤ f.length) && decide (f.length = (framelen (byteAt f 1)).toNat)

end Sys2Proof.Machine
end

