-- ==== Sys2Proof/WellFormed.lean ====
section
/-! DEFINITION. Which terms of Instr the decoder can give, under a registry: the ENCODE row only for the KIND values no ENC row refines, and a decode instruction only with a whole frame whose header selects its kind. -/

namespace Sys2Proof

open Sys2Proof.Machine

/-- The first candidate kind of a frame in registration order is k (41_dispatcher.md R120). -/
def selects (r : Registry) (f : Frame) (k : Kind) : Bool :=
  decide (Kind.all.find? (r.isCandidate f) = some k)

/-- A frame that is whole and whose header selects k. -/
def frameOf (r : Registry) (k : Kind) (f : Frame) : Bool := wholeFrame f && selects r f k

/-- The well-formed instructions under a registry. -/
def WellFormed (r : Registry) : Instr → Bool
  | .nop => true
  | .byteIn _ => true
  | .sourceClosed => true
  | .cancel => true
  | .encode kind => decide (12 ≤ kind.toNat)
  | .decodeHeadingCourse f => frameOf r .headingCourse f
  | .decodeWindAngle f => frameOf r .windAngle f
  | .decodeWindSpeed f => frameOf r .windSpeed f
  | .decodeKeystroke f => frameOf r .keystroke f
  | .decodeWaypointName f => frameOf r .waypointName f
  | .decodeNavToWaypoint f => frameOf r .navToWaypoint f
  | .decodeCalibration f => frameOf r .calibration f
  | .decodeDeadband f => frameOf r .deadband f
  | .decodeLamp f => frameOf r .lamp f
  | .decodeStw f => frameOf r .stw f
  | .decodeCcWarnings f => frameOf r .ccWarnings f
  | .decodeApWindStatus f => frameOf r .apWindStatus f
  | .encHeadingCourse => true
  | .encWindAngle => true
  | .encWindSpeed => true
  | .encKeystroke => true
  | .encWaypointName => true
  | .encNavToWaypoint => true
  | .encCalibration => true
  | .encDeadband => true
  | .encLamp => true
  | .encStw => true
  | .encCcWarnings => true
  | .encApWindStatus => true
  | .illegalOp5 _ _ => true
  | .illegalOp6 _ _ => true
  | .illegalOp7 _ _ => true
  | .illegalOp8 _ _ => true
  | .illegalOp9 _ _ => true
  | .illegalOpA _ _ => true
  | .illegalOpB _ _ => true
  | .illegalOpC _ _ => true
  | .illegalOpD _ _ => true
  | .illegalOpE _ _ => true
  | .illegalOpF _ _ => true

end Sys2Proof
end

