-- ==== Sys2Proof/Decode.lean ====
section
/-! DEFINITION. Decoding, total on every event word and every sequence of bytes, rejecting by name, and the encoder written from the same encodings (spec/30_encoding.md). -/

namespace Sys2Proof

open Sys2Proof.Machine

/-- The two encodings that meet in the BFC (30_encoding.md): the event word on the command port, and the wire frame. -/
inductive Code where
  | event (e : EventWord)
  | frame (f : Frame)
deriving DecidableEq, Repr

/-- Why a code is no instruction. -/
inductive Reject where
  /-- KIND is not 0 in an event word other than ENCODE: an illegal event (R74). -/
  | kindField
  /-- DATA is not 0 in an event word other than BYTE_IN: an illegal event (R74). -/
  | dataField
  /-- Not as many bytes as the attribute byte announces (R60): no frame yet, or more than one. -/
  | notOneFrame
  /-- No kind is a candidate for the frame: RX_UNKNOWN (R63, R122). -/
  | noCandidate
deriving DecidableEq, Repr

/-- OP, E[3:0] (R70). -/
def eventOp (e : EventWord) : Nibble := e.extractLsb' 0 4

/-- KIND, E[7:4] (R70). -/
def eventKind (e : EventWord) : Nibble := e.extractLsb' 4 4

/-- DATA, E[15:8] (R70). -/
def eventData (e : EventWord) : Byte := e.extractLsb' 8 8

/-- The event word with these fields (R70). -/
def eventWord (op kind : Nibble) (data : Byte) : EventWord := data ++ kind ++ op

/-- An event whose DATA must be 0 (R73). -/
def withoutData (data : Byte) (i : Instr) : Except Reject Instr := if data = 0 then .ok i else .error .dataField

/-- An event whose KIND must be 0 (R73). -/
def withoutKind (kind : Nibble) (r : Except Reject Instr) : Except Reject Instr :=
  if kind = 0 then r else .error .kindField

/-- The ENC row that refines ENCODE for a kind. -/
def encRow : Kind → Instr
  | .headingCourse => .encHeadingCourse
  | .windAngle => .encWindAngle
  | .windSpeed => .encWindSpeed
  | .keystroke => .encKeystroke
  | .waypointName => .encWaypointName
  | .navToWaypoint => .encNavToWaypoint
  | .calibration => .encCalibration
  | .deadband => .encDeadband
  | .lamp => .encLamp
  | .stw => .encStw
  | .ccWarnings => .encCcWarnings
  | .apWindStatus => .encApWindStatus

/-- ENCODE: the row of its kind where KIND names one, else the ENCODE row itself, whose KIND is illegal (R74, R75; log 5). -/
def encodeEvent (kind : Nibble) : Instr :=
  match Kind.ofId kind with
  | some k => encRow k
  | none => .encode kind

/-- Decoding an event word (R70, R73, R74). The reserved OP codes are rows of the table, and so instructions. -/
def decodeEvent (e : EventWord) : Except Reject Instr :=
  match (eventOp e).toNat with
  | 0 => withoutKind (eventKind e) (withoutData (eventData e) .nop)
  | 1 => withoutKind (eventKind e) (.ok (.byteIn (eventData e)))
  | 2 => withoutKind (eventKind e) (withoutData (eventData e) .sourceClosed)
  | 3 => withoutKind (eventKind e) (withoutData (eventData e) .cancel)
  | 4 => withoutData (eventData e) (encodeEvent (eventKind e))
  | 5 => .ok (.illegalOp5 (eventKind e) (eventData e))
  | 6 => .ok (.illegalOp6 (eventKind e) (eventData e))
  | 7 => .ok (.illegalOp7 (eventKind e) (eventData e))
  | 8 => .ok (.illegalOp8 (eventKind e) (eventData e))
  | 9 => .ok (.illegalOp9 (eventKind e) (eventData e))
  | 10 => .ok (.illegalOpA (eventKind e) (eventData e))
  | 11 => .ok (.illegalOpB (eventKind e) (eventData e))
  | 12 => .ok (.illegalOpC (eventKind e) (eventData e))
  | 13 => .ok (.illegalOpD (eventKind e) (eventData e))
  | 14 => .ok (.illegalOpE (eventKind e) (eventData e))
  | _ => .ok (.illegalOpF (eventKind e) (eventData e))

/-- The DECODE row of a kind, with its frame. -/
def decodeRow (k : Kind) (f : Frame) : Instr :=
  match k with
  | .headingCourse => .decodeHeadingCourse f
  | .windAngle => .decodeWindAngle f
  | .windSpeed => .decodeWindSpeed f
  | .keystroke => .decodeKeystroke f
  | .waypointName => .decodeWaypointName f
  | .navToWaypoint => .decodeNavToWaypoint f
  | .calibration => .decodeCalibration f
  | .deadband => .decodeDeadband f
  | .lamp => .decodeLamp f
  | .stw => .decodeStw f
  | .ccWarnings => .decodeCcWarnings f
  | .apWindStatus => .decodeApWindStatus f

/-- Decoding a frame: the row of the first candidate kind in registration order (R62, R63, 41_dispatcher.md R120). -/
def decodeFrame (r : Registry) (f : Frame) : Except Reject Instr :=
  if wholeFrame f then
    match Kind.all.find? (r.isCandidate f) with
    | some k => .ok (decodeRow k f)
    | none => .error .noCandidate
  else .error .notOneFrame

/-- Decoding a code of either kind. -/
def decode (r : Registry) : Code → Except Reject Instr
  | .event e => decodeEvent e
  | .frame f => decodeFrame r f

/-- The code of an instruction (R60, R73). -/
def encode : Instr → Code
  | .nop => .event (eventWord 0x0 0 0)
  | .byteIn data => .event (eventWord 0x1 0 data)
  | .sourceClosed => .event (eventWord 0x2 0 0)
  | .cancel => .event (eventWord 0x3 0 0)
  | .encode kind => .event (eventWord 0x4 kind 0)
  | .decodeHeadingCourse f => .frame f
  | .decodeWindAngle f => .frame f
  | .decodeWindSpeed f => .frame f
  | .decodeKeystroke f => .frame f
  | .decodeWaypointName f => .frame f
  | .decodeNavToWaypoint f => .frame f
  | .decodeCalibration f => .frame f
  | .decodeDeadband f => .frame f
  | .decodeLamp f => .frame f
  | .decodeStw f => .frame f
  | .decodeCcWarnings f => .frame f
  | .decodeApWindStatus f => .frame f
  | .encHeadingCourse => .event (eventWord 0x4 0 0)
  | .encWindAngle => .event (eventWord 0x4 1 0)
  | .encWindSpeed => .event (eventWord 0x4 2 0)
  | .encKeystroke => .event (eventWord 0x4 3 0)
  | .encWaypointName => .event (eventWord 0x4 4 0)
  | .encNavToWaypoint => .event (eventWord 0x4 5 0)
  | .encCalibration => .event (eventWord 0x4 6 0)
  | .encDeadband => .event (eventWord 0x4 7 0)
  | .encLamp => .event (eventWord 0x4 8 0)
  | .encStw => .event (eventWord 0x4 9 0)
  | .encCcWarnings => .event (eventWord 0x4 10 0)
  | .encApWindStatus => .event (eventWord 0x4 11 0)
  | .illegalOp5 kind data => .event (eventWord 0x5 kind data)
  | .illegalOp6 kind data => .event (eventWord 0x6 kind data)
  | .illegalOp7 kind data => .event (eventWord 0x7 kind data)
  | .illegalOp8 kind data => .event (eventWord 0x8 kind data)
  | .illegalOp9 kind data => .event (eventWord 0x9 kind data)
  | .illegalOpA kind data => .event (eventWord 0xA kind data)
  | .illegalOpB kind data => .event (eventWord 0xB kind data)
  | .illegalOpC kind data => .event (eventWord 0xC kind data)
  | .illegalOpD kind data => .event (eventWord 0xD kind data)
  | .illegalOpE kind data => .event (eventWord 0xE kind data)
  | .illegalOpF kind data => .event (eventWord 0xF kind data)

/-- The frame with a selection word (R62: f[0] is H[15:8], f[1] is H[7:0]) and every payload byte 0, as long as its
length nibble says. -/
def headerFrame (h : EventWord) : Frame :=
  let attr : Byte := h.extractLsb' 0 8
  [h.extractLsb' 8 8, attr] ++ List.replicate ((framelen attr).toNat - 2) 0

/-- The code that 16 bits of the opcode table stand for: the frame with this selection word where some kind is a
candidate for it, else the event word. The two share the table's numbers; DESIGN CHOICE (log 4). -/
def tableCode (r : Registry) (w : EventWord) : Code :=
  match decodeFrame r (headerFrame w) with
  | .ok _ => .frame (headerFrame w)
  | .error _ => .event w

/-- The instruction the decoder reads from bits numbered as the opcode table numbers them. Every row has 16 bits. -/
def decodeTableWord (nbits w : Nat) : Option Instr :=
  if nbits ≤ 16 ∧ w < 2 ^ 16 then (decode defaultRegistry (tableCode defaultRegistry (BitVec.ofNat 16 w))).toOption
  else none

end Sys2Proof
end

