-- ==== Sys2Proof/Machine/State.lean ====
section
/-! DEFINITION. The state of the BFC as plain data (spec/10_state.md), the reasons a step can stop, and the state after reset (spec/70_reset_and_hazards.md R340). -/

namespace Sys2Proof.Machine

/-- Why a step, or the host's read of a result, stops. None is a behaviour of the hardware: each stands where the spec
says that there is no value or no such address. -/
inductive Fault where
  /-- A read of BUF at an index that holds no byte of the partial frame (20_memory.md R43). Raised by bufRead, which
  BYTE_IN uses when a frame completes. Safe. -/
  | bufNoValue
  /-- A write of BUF at an index outside 0..17 (20_memory.md R42, R43). Raised by BYTE_IN. Safe. -/
  | bufAddress
  /-- A frame too short for the decoder of a candidate kind: an index beyond the frame has no value (43_codecs.md R160,
  20_memory.md R43). Raised by the classification; only an illegal registry reaches it. Safe. -/
  | frameTooShort
  /-- A host's read of a field of RX or TX that is not valid under the current code (10_state.md R25, R26). Raised by
  the read functions of Ops.lean, by no step. Safe. -/
  | resultNoValue
deriving DecidableEq, Repr

/-- Why an instruction or a step has no meaning. -/
inductive Refusal where
  /-- An instruction the model gives no meaning yet; raised by exec's arms only. Safe. -/
  | notModelled (mnemonic : String)
  /-- A registry that breaks the constraints of 10_state.md R39 or 00_scope.md R8, which "a model refuses". Raised by
  step. Safe. -/
  | illegalRegistry
deriving DecidableEq, Repr

/-- FA_STATE (10_state.md R21). Its value 3 is never written and is not represented. -/
inductive FaState where
  | sCmd
  | sAttr
  | sPayload
deriving DecidableEq, Repr

/-- FAULT.code (10_state.md R28). -/
inductive FaultCode where
  | none
  | illegalEvent
  | helperDomain
deriving DecidableEq, Repr

/-- The fault register FAULT (10_state.md R28). -/
structure FaultReg where
  flag : Bool
  code : FaultCode
deriving DecidableEq, Repr

/-- The field record of a decoded navigation frame (43_codecs.md R183). -/
structure NavFields where
  xteHundredths : BitVec 12
  bearingHalf : BitVec 10
  distRaw : BitVec 12
  distScale : Bool
  steerRight : Bool
  xtePresent : Bool
  bearingPresent : Bool
  distPresent : Bool
  xteBig : Bool
  flags : Byte
  reserved3 : BitVec 2
  reserved7 : Byte
deriving DecidableEq, Repr

/-- RX.fields: the decoded field record of each kind (43_codecs.md). The constructor is RX.kind. -/
inductive Fields where
  | headingCourse (heading : BitVec 9) (courseHalf : BitVec 10) (tail : List Byte)
  | windAngle (angleHalf : BitVec 16) (aux : Nibble)
  | windSpeed (unit : Bool) (speedTenths : BitVec 11) (aux : Nibble)
  | keystroke (key : Byte) (aux : Nibble) (mid : List Byte)
  | waypointName (chars : Vector Byte 4) (aux : Nibble)
  | navToWaypoint (record : NavFields)
  | calibration (aux : Nibble) (payload : List Byte)
  | deadband (aux : Nibble) (payload : List Byte)
  | lamp (level : BitVec 2) (aux : Nibble)
  | stw (speedTenths : BitVec 16) (aux : Nibble)
  | ccWarnings (aux : Nibble) (payload : List Byte)
  | apWindStatus (aux : Nibble) (payload : List Byte)
deriving DecidableEq, Repr

/-- The receive result register RX (10_state.md R25): one constructor per code, which carries exactly the fields that are
valid under it. A field that is not valid holds no value, so there is none. -/
inductive Rx where
  | none
  | needMore
  | message (fields : Fields) (frame : Frame)
  | unknown (frame : Frame)
  | malformed (frame : Frame)
  | framingError (discarded : BitVec 5)
  | cancelled (discarded : BitVec 5)
deriving DecidableEq, Repr

/-- The transmit result register TX (10_state.md R26). -/
inductive Tx where
  | none
  | frame (bytes : Frame)
  | unsupported
  | outOfRange
deriving DecidableEq, Repr

/-- The ENCODE operand record `opnd` (30_encoding.md R76), as one bundle of every kind's operand fields, so that the
record of the event's kind is always present. The tail and mid fields are as wide as the longest frame allows, and an
encoder takes the bytes its record has. DESIGN CHOICE (log 7). -/
structure Opnd where
  heading : BitVec 9
  courseHalf : BitVec 10
  tail : Vector Byte 14
  angleHalf : BitVec 16
  windTenths : BitVec 11
  key : Byte
  aux : Nibble
  mid : Vector Byte 14
  nameLength : BitVec 3
  chars : Vector Byte 4
  level : Byte
  stwTenths : BitVec 16
deriving DecidableEq, Repr

/-- The `opnd` port before the host has presented anything. DESIGN CHOICE all zero (log 8). -/
def Opnd.zero : Opnd where
  heading := 0
  courseHalf := 0
  tail := Vector.replicate 14 0
  angleHalf := 0
  windTenths := 0
  key := 0
  aux := 0
  mid := Vector.replicate 14 0
  nameLength := 0
  chars := Vector.replicate 4 0
  level := 0
  stwTenths := 0

/-- What the host presents for one step (30_encoding.md R71, R72): the ports `rst`, `ev` and `opnd`. -/
structure Presentation where
  rst : Bool
  ev : EventWord
  opnd : Opnd
deriving DecidableEq, Repr

/-- The content of BUF: the bytes that have a value, by rising address (20_memory.md R42). A byte that is not listed has
no value (log 11). -/
abbrev Memory := List Host.Cell

/-- The canonical form of BUF: addresses strictly rising, each inside 0..17. -/
abbrev Memory.wf (m : Memory) : Prop := m.Pairwise (fun a b => a.1 < b.1) ∧ ∀ c ∈ m, c.1 < 18

/-- The state of the BFC (10_state.md R21 to R28), the operand port, and the host's presentations. -/
structure State where
  /-- FA_STATE (R21). -/
  faState : FaState
  /-- FA_COUNT (R22). -/
  faCount : BitVec 5
  /-- FA_LEN (R23). -/
  faLen : BitVec 5
  /-- BUF (20_memory.md R42). -/
  buf : Memory
  /-- The Descriptor Registry's parameters (R24), which no event writes. -/
  registry : Registry
  /-- RX (R25). -/
  rx : Rx
  /-- TX (R26). -/
  tx : Tx
  /-- DIAG (R27). -/
  diag : Byte
  /-- FAULT (R28). -/
  fault : FaultReg
  /-- The `opnd` port (30_encoding.md R71): what it shows in the step of an event; a step with `rst`, or without a
  presentation, leaves what the last event showed (log 28, log 2). -/
  opnd : Opnd
  /-- What the host presents in this step and the steps after it, the first at the head. DESIGN CHOICE (log 1). -/
  input : List Presentation
deriving DecidableEq, Repr

/-- FAULT cleared (70_reset_and_hazards.md R340). -/
def FaultReg.clear : FaultReg := ⟨false, .none⟩

/-- The machine right after reset (10_state.md R32, 70_reset_and_hazards.md R340), with the default registry and nothing
presented. FA_LEN is 0 where the spec states no value (DESIGN CHOICE, log 9), and BUF lists no byte (log 11). -/
def State.reset : State where
  faState := .sCmd
  faCount := 0
  faLen := 0
  buf := []
  registry := defaultRegistry
  rx := .none
  tx := .none
  diag := 0
  fault := .clear
  opnd := .zero
  input := []

end Sys2Proof.Machine
end

