-- ==== Sys2Proof/Machine/Flags.lean ====
section
/-! DEFINITION. The BFC has no condition codes (spec/10_state.md R31). What it computes in their place: the DIAG register (R27) and the sticky FAULT register, the only trap-like mechanism (R28, spec/60_exceptions.md R305, R306). -/

namespace Sys2Proof.Machine

/-- DIAG after a keystroke: bit 0 reports a key code outside KNOWN_KEYCODES (10_state.md R27, 43_codecs.md R176). -/
def keystrokeDiag (key : Byte) : Byte := if Config.knownKeycode key then 0 else 0x01

/-- DIAG after a navigation frame: the flag bits without a meaning (10_state.md R27, 43_codecs.md R184): 0xA0 in the
default layout. DESIGN CHOICE (log 25): which bits these are under another NAV_LAYOUT the spec leaves open; they are
the registry's own mask, whatever the places of the flag bits. -/
def navDiag (nav : NavLayout) (flags : Byte) : Byte := flags &&& nav.unrecognised

/-- Raising a fault (R28, R312): the flag is sticky and the first code is kept. -/
def FaultReg.raise (f : FaultReg) (code : FaultCode) : FaultReg := if f.flag then f else ⟨true, code⟩

/-- The number in RX.code (10_state.md R25). -/
def Rx.code : Rx → BitVec 3
  | .none => 0
  | .needMore => 1
  | .message _ _ => 2
  | .unknown _ => 3
  | .malformed _ => 4
  | .framingError _ => 5
  | .cancelled _ => 6

/-- The number in TX.code (10_state.md R26). -/
def Tx.code : Tx → BitVec 2
  | .none => 0
  | .frame _ => 1
  | .unsupported => 2
  | .outOfRange => 3

/-- The number in FAULT.code (10_state.md R28). -/
def FaultCode.code : FaultCode → BitVec 2
  | .none => 0
  | .illegalEvent => 1
  | .helperDomain => 2

/-- The number in FA_STATE (10_state.md R21). -/
def FaState.code : FaState → BitVec 2
  | .sCmd => 0
  | .sAttr => 1
  | .sPayload => 2

/-- RX.kind of a decoded record (10_state.md R25). -/
def Fields.kind : Fields → Kind
  | .headingCourse _ _ _ => .headingCourse
  | .windAngle _ _ => .windAngle
  | .windSpeed _ _ _ => .windSpeed
  | .keystroke _ _ _ => .keystroke
  | .waypointName _ _ => .waypointName
  | .navToWaypoint _ => .navToWaypoint
  | .calibration _ _ => .calibration
  | .deadband _ _ => .deadband
  | .lamp _ _ => .lamp
  | .stw _ _ => .stw
  | .ccWarnings _ _ => .ccWarnings
  | .apWindStatus _ _ => .apWindStatus

/-- The unit a wind speed counts tenths of (43_codecs.md R169). -/
inductive SpeedUnit where
  | knots
  | metresPerSecond
deriving DecidableEq, Repr

/-- The meaning of the unit bit (43_codecs.md R169). PRESUMED: the spec marks the polarity as general knowledge (log 19). -/
def speedUnit (unit : Bool) : SpeedUnit := if unit then .metresPerSecond else .knots

end Sys2Proof.Machine
end

