-- ==== Sys2Proof/Machine/Ops.lean ====
section
/-! DEFINITION. The named operations over the state: the frame buffer, the per-step result registers, raising a fault (the BFC's only form of taking an exception), reset, taking the host's next presentation, and the host's reads of the results. -/

namespace Sys2Proof.Machine

/-- The byte listed at an address, if one is. -/
def Memory.read (m : Memory) (a : Nat) : Option Byte :=
  match m with
  | [] => none
  | c :: rest => if c.1 = a then some c.2 else Memory.read rest a

/-- The byte put at an address, the list kept in rising order. -/
def Memory.write (m : Memory) (a : Nat) (v : Byte) : Memory :=
  match m with
  | [] => [(a, v)]
  | c :: rest =>
    if a < c.1 then (a, v) :: c :: rest
    else if c.1 = a then (a, v) :: rest
    else c :: Memory.write rest a v

/-- MemRead(i, 1) (20_memory.md R43): BUF[i] for i below FA_COUNT, a fault where there is no value. -/
def State.bufRead (s : State) (i : Nat) : Except Fault Byte :=
  if i < s.faCount.toNat then
    match s.buf.read i with
    | some b => .ok b
    | none => .error .bufNoValue
  else .error .bufNoValue

/-- BUF[0 .. n-1], byte by byte (20_memory.md R42). -/
def State.bufReadPrefix (s : State) : Nat → Except Fault (List Byte)
  | 0 => .ok []
  | n + 1 =>
    match s.bufReadPrefix n with
    | .error e => .error e
    | .ok bytes =>
      match s.bufRead n with
      | .error e => .error e
      | .ok b => .ok (bytes ++ [b])

/-- MemWrite(i, 1, b) (20_memory.md R43): an address outside 0..17 does not exist. -/
def State.bufWrite (s : State) (i : Nat) (b : Byte) : Except Fault State :=
  if i < 18 then .ok { s with buf := s.buf.write i b } else .error .bufAddress

/-- The results of a step that writes RX and leaves TX at TX_NONE (40_frame_assembler.md R100). -/
def State.presentRx (s : State) (rx : Rx) (diag : Byte) : State := { s with rx := rx, tx := .none, diag := diag }

/-- The results of a step that writes TX and leaves RX at RX_NONE and DIAG at 0 (R100, 43_codecs.md R200). -/
def State.presentTx (s : State) (tx : Tx) : State := { s with rx := .none, tx := tx, diag := 0 }

/-- The Frame Assembler at a frame boundary, the partial frame dropped (R103, R104, R105; log 10, 11). -/
def State.dropFrame (s : State) : State := { s with faState := .sCmd, faCount := 0, buf := [] }

/-- Taking a fault: the one operation that records an exception on this hardware (10_state.md R28, 60_exceptions.md
R305, R306). Nothing is saved and no control is transferred (R300, R311). -/
def State.raiseFault (s : State) (code : FaultCode) : State := { s with fault := s.fault.raise code }

/-- An illegal event (60_exceptions.md R305). -/
def State.illegalEvent (s : State) : State := (s.presentRx .none 0).raiseFault .illegalEvent

/-- A step with `rst` asserted (70_reset_and_hazards.md R340): the registry stays, FA_LEN is not written (10_state.md R30),
BUF holds no value. -/
def State.applyReset (s : State) : State := { s.dropFrame.presentRx .none 0 with fault := .clear }

/-- What the machine finds on its ports (30_encoding.md R72). -/
inductive Taken where
  /-- Nothing is presented. -/
  | idle
  /-- `rst` is asserted, and `ev` is ignored. -/
  | reset (s : State)
  /-- An event word, with `opnd` on its port. -/
  | event (e : EventWord) (s : State)
deriving DecidableEq, Repr

/-- Taking the host's next presentation: one per step, and `rst` wins (30_encoding.md R72; log 1). DESIGN CHOICE (log 28):
with `rst` the operand record presented is dropped and the one of the last event stays, on which 70_reset_and_hazards.md
R340 is silent. -/
def State.take (s : State) : Taken :=
  match s.input with
  | [] => .idle
  | p :: rest =>
    if p.rst then .reset { s with input := rest } else .event p.ev { s with input := rest, opnd := p.opnd }

/-- The state with one more presentation before those that wait: an event word, with `opnd` as it is. -/
def State.presenting (s : State) (e : EventWord) : State := { s with input := ⟨false, e, s.opnd⟩ :: s.input }

/-- The state in which the next step completes this frame: all but its last byte held, the last one presented (R101). -/
def State.awaitingLastByte (s : State) (f : Frame) : State :=
  { s with
    faState := .sPayload
    faCount := BitVec.ofNat 5 (f.length - 1)
    faLen := BitVec.ofNat 5 f.length
    buf := (List.range (f.length - 1)).map fun i => (i, byteAt f i) }.presenting
      (eventWord 0x1 0 (byteAt f (f.length - 1)))

/-- The state whose next step runs a code (30_encoding.md). -/
def State.presentCode (s : State) : Code → State
  | .event e => s.presenting e
  | .frame f => s.awaitingLastByte f

/-- The host's read of RX.kind (10_state.md R25). -/
def State.readRxKind (s : State) : Except Fault (BitVec 4) :=
  match s.rx with
  | .message fields _ => .ok (BitVec.ofNat 4 fields.kind.id)
  | _ => .error .resultNoValue

/-- The host's read of RX.fields (10_state.md R25). -/
def State.readRxFields (s : State) : Except Fault Fields :=
  match s.rx with
  | .message fields _ => .ok fields
  | _ => .error .resultNoValue

/-- The host's read of RX.frame (10_state.md R25). -/
def State.readRxFrame (s : State) : Except Fault Frame :=
  match s.rx with
  | .message _ frame => .ok frame
  | .unknown frame => .ok frame
  | .malformed frame => .ok frame
  | _ => .error .resultNoValue

/-- The host's read of RX.len, the frame's length (10_state.md R25). -/
def State.readRxLen (s : State) : Except Fault (BitVec 5) :=
  match s.readRxFrame with
  | .ok frame => .ok (BitVec.ofNat 5 frame.length)
  | .error e => .error e

/-- The host's read of RX.discarded (10_state.md R25). -/
def State.readRxDiscarded (s : State) : Except Fault (BitVec 5) :=
  match s.rx with
  | .framingError n => .ok n
  | .cancelled n => .ok n
  | _ => .error .resultNoValue

/-- The host's read of TX.frame (10_state.md R26). -/
def State.readTxFrame (s : State) : Except Fault Frame :=
  match s.tx with
  | .frame bytes => .ok bytes
  | _ => .error .resultNoValue

/-- The host's read of TX.len (10_state.md R26). -/
def State.readTxLen (s : State) : Except Fault (BitVec 5) :=
  match s.readTxFrame with
  | .ok frame => .ok (BitVec.ofNat 5 frame.length)
  | .error e => .error e

end Sys2Proof.Machine
end

