-- ==== Sys2Proof/Machine/Encoders.lean ====
section
/-! DEFINITION. The encoders (spec/43_codecs.md) as functions from the operand record to TX, the ENCODE event, and its twelve rows per kind. -/

namespace Sys2Proof.Machine

/-- ENCODE_HEADING_COURSE (R163). -/
def encodeHeadingCourse (r : Registry) (o : Opnd) : Tx :=
  if 359 < o.heading.toNat ∨ 719 < o.courseHalf.toNat then .outOfRange
  else
    let p := headsplit o.heading
    let vw : Byte := ((o.courseHalf / 180).setWidth 8 <<< 6) ||| p.steps.setWidth 8
    .frame ([r.cmdHeadingCourse, attributeByte p.nibble r.lenHeadingCourse, vw, (o.courseHalf % 180).setWidth 8]
      ++ o.tail.toList.take (r.lenHeadingCourse - 4))

/-- ENCODE_WIND_ANGLE (R166). -/
def encodeWindAngle (o : Opnd) : Tx :=
  if 719 < o.angleHalf.toNat then .outOfRange
  else .frame [0x10, 0x01, (split16 o.angleHalf).1, (split16 o.angleHalf).2]

/-- ENCODE_WIND_SPEED (R170): always in knots, so bit 7 of f[2] is 0. -/
def encodeWindSpeed (o : Opnd) : Tx :=
  if 1279 < o.windTenths.toNat then .outOfRange
  else .frame [0x11, 0x01, (o.windTenths / 10).setWidth 8, (o.windTenths % 10).setWidth 8]

/-- ENCODE_KEYSTROKE (R174). -/
def encodeKeystroke (r : Registry) (o : Opnd) : Tx :=
  .frame ([r.cmdKeystroke, attributeByte o.aux r.lenKeystroke] ++ o.mid.toList.take (r.lenKeystroke - 4)
    ++ [o.key, not8 o.key])

/-- The code of slot i of a waypoint name: CHAR6 of a character of the name, else 0 (R178). -/
def nameCode (o : Opnd) (i : Fin 4) : BitVec 6 := if i.val < o.nameLength.toNat then char6 o.chars[i] else 0

/-- ENCODE_WAYPOINT_NAME (R178). -/
def encodeWaypointName (r : Registry) (o : Opnd) : Tx :=
  if 4 < o.nameLength.toNat then .outOfRange
  else
    let (x, y, z) := pack6x4 (nameCode o 0) (nameCode o 1) (nameCode o 2) (nameCode o 3)
    .frame [r.cmdWaypointName, 0x05, x, not8 x, y, not8 y, z, not8 z]

/-- ENCODE_LAMP (R192). -/
def encodeLamp (o : Opnd) : Tx := if 3 < o.level.toNat then .outOfRange else .frame [0x30, 0x00, o.level <<< 2]

/-- ENCODE_STW (R196): every value is legal. -/
def encodeStw (o : Opnd) : Tx := .frame [0x20, 0x01, (split16 o.stwTenths).1, (split16 o.stwTenths).2]

/-- ENCODE_k (R200): the encoder of a kind, or TX_UNSUPPORTED for the kinds without one. -/
def encodeKind (r : Registry) (k : Kind) (o : Opnd) : Tx :=
  match k with
  | .headingCourse => encodeHeadingCourse r o
  | .windAngle => encodeWindAngle o
  | .windSpeed => encodeWindSpeed o
  | .keystroke => encodeKeystroke r o
  | .waypointName => encodeWaypointName r o
  | .navToWaypoint => .unsupported
  | .calibration => .unsupported
  | .deadband => .unsupported
  | .lamp => encodeLamp o
  | .stw => encodeStw o
  | .ccWarnings => .unsupported
  | .apWindStatus => .unsupported

/-- ENCODE (R200): the encoder of the kind KIND names; a KIND of 12 to 15 is an illegal event (30_encoding.md R74). -/
def execEncode (kind : Nibble) (s : State) : Host.Outcome State Fault Refusal :=
  match Kind.ofId kind with
  | some k => .next (s.presentTx (encodeKind s.registry k s.opnd))
  | none => .next s.illegalEvent

/-- ENC.HEADING_COURSE (R163). -/
def execEncHeadingCourse (s : State) : Host.Outcome State Fault Refusal :=
  .next (s.presentTx (encodeHeadingCourse s.registry s.opnd))

/-- ENC.WIND_ANGLE (R166). -/
def execEncWindAngle (s : State) : Host.Outcome State Fault Refusal := .next (s.presentTx (encodeWindAngle s.opnd))

/-- ENC.WIND_SPEED (R170). -/
def execEncWindSpeed (s : State) : Host.Outcome State Fault Refusal := .next (s.presentTx (encodeWindSpeed s.opnd))

/-- ENC.KEYSTROKE (R174). -/
def execEncKeystroke (s : State) : Host.Outcome State Fault Refusal :=
  .next (s.presentTx (encodeKeystroke s.registry s.opnd))

/-- ENC.WAYPOINT_NAME (R178). -/
def execEncWaypointName (s : State) : Host.Outcome State Fault Refusal :=
  .next (s.presentTx (encodeWaypointName s.registry s.opnd))

/-- ENC.NAV_TO_WAYPOINT (R185): the operand record is not read. -/
def execEncNavToWaypoint (s : State) : Host.Outcome State Fault Refusal := .next (s.presentTx .unsupported)

/-- ENC.CALIBRATION (R187). -/
def execEncCalibration (s : State) : Host.Outcome State Fault Refusal := .next (s.presentTx .unsupported)

/-- ENC.DEADBAND (R189). -/
def execEncDeadband (s : State) : Host.Outcome State Fault Refusal := .next (s.presentTx .unsupported)

/-- ENC.LAMP (R192). -/
def execEncLamp (s : State) : Host.Outcome State Fault Refusal := .next (s.presentTx (encodeLamp s.opnd))

/-- ENC.STW (R196). -/
def execEncStw (s : State) : Host.Outcome State Fault Refusal := .next (s.presentTx (encodeStw s.opnd))

/-- ENC.CC_WARNINGS (R194). -/
def execEncCcWarnings (s : State) : Host.Outcome State Fault Refusal := .next (s.presentTx .unsupported)

/-- ENC.AP_WIND_STATUS (R198). -/
def execEncApWindStatus (s : State) : Host.Outcome State Fault Refusal := .next (s.presentTx .unsupported)

end Sys2Proof.Machine
end

