-- ==== Sys2Proof/Machine/Match.lean ====
section
/-! DEFINITION. The match predicates, one per kind (spec/41_dispatcher.md R124). Each reads only the frame and the registry parameters. -/

namespace Sys2Proof.Machine

/-- MATCH_HEADING_COURSE (43_codecs.md R161). -/
def matchHeadingCourse (_f : Frame) : Bool := true

/-- MATCH_WIND_ANGLE (R164). -/
def matchWindAngle (_f : Frame) : Bool := true

/-- MATCH_WIND_SPEED (R167): the tenths byte is at most 9. -/
def matchWindSpeed (f : Frame) : Bool := decide (byteAt f 3 ≤ 9)

/-- MATCH_KEYSTROKE (R171): the two trailing bytes are complements. -/
def matchKeystroke (f : Frame) : Bool := compl8 (byteAt f (f.length - 2)) (byteAt f (f.length - 1))

/-- MATCH_WAYPOINT_NAME (R177): the three byte pairs sum to 0xFF. -/
def matchWaypointName (f : Frame) : Bool :=
  compl8 (byteAt f 2) (byteAt f 3) && compl8 (byteAt f 4) (byteAt f 5) && compl8 (byteAt f 6) (byteAt f 7)

/-- MATCH_NAV_TO_WAYPOINT (R181): the final byte complements the flags byte, whose place NAV_LAYOUT gives. -/
def matchNavToWaypoint (nav : NavLayout) (f : Frame) : Bool := compl8 (byteAt f nav.flags) (byteAt f 8)

/-- MATCH_CALIBRATION (R186). -/
def matchCalibration (p : MatchParam) (f : Frame) : Bool :=
  match p with
  | .always => true
  | .integrator => Config.matchCal f

/-- MATCH_DEADBAND (R188). -/
def matchDeadband (p : MatchParam) (f : Frame) : Bool :=
  match p with
  | .always => true
  | .integrator => Config.matchDeadband f

/-- MATCH_LAMP (R190). -/
def matchLamp (f : Frame) : Bool :=
  decide (byteAt f 2 = 0x00) || decide (byteAt f 2 = 0x04) || decide (byteAt f 2 = 0x08) || decide (byteAt f 2 = 0x0C)

/-- MATCH_STW (R195). -/
def matchStw (_f : Frame) : Bool := true

/-- MATCH_CC_WARNINGS (R193), which the spec leaves OPEN (log 15). -/
def matchCcWarnings (f : Frame) : Bool := Config.matchCcw f

/-- MATCH_AP_WIND_STATUS (R197). -/
def matchApWindStatus (p : MatchParam) (f : Frame) : Bool :=
  match p with
  | .always => true
  | .integrator => Config.matchApws f

/-- MATCH_k (R124). -/
def matchKind (r : Registry) (k : Kind) (f : Frame) : Bool :=
  match k with
  | .headingCourse => matchHeadingCourse f
  | .windAngle => matchWindAngle f
  | .windSpeed => matchWindSpeed f
  | .keystroke => matchKeystroke f
  | .waypointName => matchWaypointName f
  | .navToWaypoint => matchNavToWaypoint r.nav f
  | .calibration => matchCalibration r.matchCal f
  | .deadband => matchDeadband r.matchDeadband f
  | .lamp => matchLamp f
  | .stw => matchStw f
  | .ccWarnings => matchCcWarnings f
  | .apWindStatus => matchApWindStatus r.matchApws f

/-- The disambiguation property of a registry (41_dispatcher.md R127): no frame satisfies the predicates of two kinds that
share its command byte and its length. 93_implementation_defined.md makes it an obligation on the parameters of an
instance, and Registry.legal does not ask for it, since 10_state.md R39 forbids no collision (DEDUCED, log 26): where it
fails, the lower kind id still wins (R121). -/
def Registry.unambiguous (r : Registry) : Prop :=
  ∀ (i j : Kind) (f : Frame), wholeFrame f = true → i.id < j.id → r.isCandidate f i = true →
    r.isCandidate f j = true → ¬ (matchKind r i f = true ∧ matchKind r j f = true)

end Sys2Proof.Machine
end

