-- ==== Sys2Proof/Machine/Decoders.lean ====
section
/-! DEFINITION. The decoders, one per kind (spec/43_codecs.md): the field record and the DIAG value of a frame. -/

namespace Sys2Proof.Machine

/-- What a decoder returns: the field record and DIAG (43_codecs.md R160). -/
abbrev Decoded := Fields × Byte

/-- DECODE_HEADING_COURSE (R162): none where BITCOUNT2 is outside its domain, which no frame reaches (R140). The course
byte f[3] is the spec's from general knowledge: PRESUMED (log 18). -/
def decodeHeadingCourse (f : Frame) : Option Decoded :=
  (heading (auxnib (byteAt f 1)) (byteAt f 2)).map fun h =>
    (.headingCourse h (coursehalf (byteAt f 2) (byteAt f 3)) (f.drop 4), 0)

/-- DECODE_WIND_ANGLE (R165). -/
def decodeWindAngle (f : Frame) : Decoded := (.windAngle (u16be (byteAt f 2) (byteAt f 3)) (auxnib (byteAt f 1)), 0)

/-- DECODE_WIND_SPEED (R168). -/
def decodeWindSpeed (f : Frame) : Decoded :=
  (.windSpeed ((byteAt f 2).getLsbD 7) ((byteAt f 2 &&& 0x7F).setWidth 11 * 10 + (byteAt f 3).setWidth 11)
    (auxnib (byteAt f 1)), 0)

/-- DECODE_KEYSTROKE (R173). -/
def decodeKeystroke (f : Frame) : Decoded :=
  (.keystroke (byteAt f (f.length - 2)) (auxnib (byteAt f 1)) ((f.drop 2).take (f.length - 4)),
    keystrokeDiag (byteAt f (f.length - 2)))

/-- DECODE_WAYPOINT_NAME (R179): the data byte of each pair is its first (PRESUMED, log 20). -/
def decodeWaypointName (f : Frame) : Decoded :=
  let (c0, c1, c2, c3) := unpack6x4 (byteAt f 2) (byteAt f 4) (byteAt f 6)
  (.waypointName #v[ascii6 c0, ascii6 c1, ascii6 c2, ascii6 c3] (auxnib (byteAt f 1)), 0)

/-- The field record of a navigation frame (R183), each field at its place in NAV_LAYOUT. -/
def navFields (nav : NavLayout) (f : Frame) : NavFields :=
  let flags := byteAt f nav.flags
  { xteHundredths := u12 (navField f nav.xteHigh 8) (navField f nav.xteLow 4)
    bearingHalf :=
      (navField f nav.bearingQuadrant 2).setWidth 10 * 180
        + (navField f nav.bearingHigh 4 ++ navField f nav.bearingLow 4 : Byte).setWidth 10
    distRaw := u12 (navField f nav.distHigh 8) (navField f nav.distLow 4)
    distScale := flags.getLsbD nav.distScale
    steerRight := flags.getLsbD nav.steerRight
    xtePresent := flags.getLsbD nav.xtePresent
    bearingPresent := flags.getLsbD nav.bearingPresent
    distPresent := flags.getLsbD nav.distPresent
    xteBig := flags.getLsbD nav.xteBig
    flags := flags
    reserved3 := navField f nav.reserved3 2
    reserved7 := byteAt f nav.reserved7 }

/-- DECODE_NAV_TO_WAYPOINT (R183, R184). -/
def decodeNavToWaypoint (nav : NavLayout) (f : Frame) : Decoded :=
  (.navToWaypoint (navFields nav f), navDiag nav (byteAt f nav.flags))

/-- DECODE_CALIBRATION (R186): the payload raw. -/
def decodeCalibration (f : Frame) : Decoded := (.calibration (auxnib (byteAt f 1)) (f.drop 2), 0)

/-- DECODE_DEADBAND (R188): the payload raw. -/
def decodeDeadband (f : Frame) : Decoded := (.deadband (auxnib (byteAt f 1)) (f.drop 2), 0)

/-- DECODE_LAMP (R191). -/
def decodeLamp (f : Frame) : Decoded := (.lamp ((byteAt f 2 >>> 2).setWidth 2) (auxnib (byteAt f 1)), 0)

/-- DECODE_STW (R195). -/
def decodeStw (f : Frame) : Decoded := (.stw (u16be (byteAt f 2) (byteAt f 3)) (auxnib (byteAt f 1)), 0)

/-- DECODE_CC_WARNINGS (R193): the payload raw. -/
def decodeCcWarnings (f : Frame) : Decoded := (.ccWarnings (auxnib (byteAt f 1)) (f.drop 2), 0)

/-- DECODE_AP_WIND_STATUS (R197): the payload raw. -/
def decodeApWindStatus (f : Frame) : Decoded := (.apWindStatus (auxnib (byteAt f 1)) (f.drop 2), 0)

/-- DECODE_k; none is the helper-domain fault (R160, 60_exceptions.md R306). -/
def decodeKind (r : Registry) (k : Kind) (f : Frame) : Option Decoded :=
  match k with
  | .headingCourse => decodeHeadingCourse f
  | .windAngle => some (decodeWindAngle f)
  | .windSpeed => some (decodeWindSpeed f)
  | .keystroke => some (decodeKeystroke f)
  | .waypointName => some (decodeWaypointName f)
  | .navToWaypoint => some (decodeNavToWaypoint r.nav f)
  | .calibration => some (decodeCalibration f)
  | .deadband => some (decodeDeadband f)
  | .lamp => some (decodeLamp f)
  | .stw => some (decodeStw f)
  | .ccWarnings => some (decodeCcWarnings f)
  | .apWindStatus => some (decodeApWindStatus f)

/-- How many bytes of a frame MATCH_k and DECODE_k need: one more than the highest index they read (30_encoding.md R64 to
R80; the keystroke's two trailing bytes are not its header). -/
def bytesNeeded : Kind → Nat
  | .headingCourse => 4
  | .windAngle => 4
  | .windSpeed => 4
  | .keystroke => 4
  | .waypointName => 8
  | .navToWaypoint => 9
  | .calibration => 2
  | .deadband => 2
  | .lamp => 3
  | .stw => 4
  | .ccWarnings => 2
  | .apWindStatus => 2

end Sys2Proof.Machine
end

