-- ==== Sys2Proof/Machine/Classify.lean ====
section
/-! DEFINITION. The Dispatcher CLASSIFY (spec/41_dispatcher.md R120), and the meanings of the twelve decode rows: a row's instruction is its kind's turn in CLASSIFY's loop over the candidates, with the later candidates after it. -/

namespace Sys2Proof.Machine

/-- What the classification of a frame finds. -/
inductive Report where
  /-- No candidate: RX_UNKNOWN (R122). -/
  | unknown
  /-- Candidates, none of which matches: RX_MALFORMED (R123). -/
  | malformed
  /-- A message, with its DIAG. -/
  | message (fields : Fields) (diag : Byte)
  /-- BITCOUNT2 outside its domain (60_exceptions.md R306). -/
  | helperDomain
deriving DecidableEq, Repr

/-- The first candidate that matches is decoded (R120, R121). -/
def firstMatch (r : Registry) (f : Frame) : List Kind → Report
  | [] => .malformed
  | k :: ks =>
    if matchKind r k f then
      match decodeKind r k f with
      | some (fields, diag) => .message fields diag
      | none => .helperDomain
    else firstMatch r f ks

/-- CLASSIFY over some of the kinds, in order (R120). -/
def classifyAmong (r : Registry) (ks : List Kind) (f : Frame) : Report :=
  match ks.filter (r.isCandidate f) with
  | [] => .unknown
  | k :: cands => firstMatch r f (k :: cands)

/-- CLASSIFY (R120): over all kinds, in registration order. -/
def classify (r : Registry) (f : Frame) : Report := classifyAmong r Kind.all f

/-- Writing a classification to RX, TX and DIAG (R120, 60_exceptions.md R306). -/
def State.present (s : State) (f : Frame) : Report → State
  | .unknown => s.presentRx (.unknown f) 0
  | .malformed => s.presentRx (.malformed f) 0
  | .message fields diag => s.presentRx (.message fields f) diag
  | .helperDomain => (s.presentRx (.malformed f) 0).raiseFault .helperDomain

/-- No candidate's match predicate or decoder reads beyond the frame (43_codecs.md R160). -/
def framesFit (r : Registry) (ks : List Kind) (f : Frame) : Bool :=
  (ks.filter (r.isCandidate f)).all fun k => decide (bytesNeeded k ≤ f.length)

/-- Classifying a frame among some kinds and presenting what is found; an index beyond the frame stops by name (log 24). -/
def classifyInto (ks : List Kind) (f : Frame) (s : State) : Host.Outcome State Fault Refusal :=
  if framesFit s.registry ks f then .next (s.present f (classifyAmong s.registry ks f)) else .fault .frameTooShort

/-- DECODE.HEADING_COURSE (43_codecs.md R162). -/
def execDecodeHeadingCourse (f : Frame) (s : State) : Host.Outcome State Fault Refusal :=
  classifyInto (Kind.fromOn .headingCourse) f s

/-- DECODE.WIND_ANGLE (R165). -/
def execDecodeWindAngle (f : Frame) (s : State) : Host.Outcome State Fault Refusal :=
  classifyInto (Kind.fromOn .windAngle) f s

/-- DECODE.WIND_SPEED (R168). -/
def execDecodeWindSpeed (f : Frame) (s : State) : Host.Outcome State Fault Refusal :=
  classifyInto (Kind.fromOn .windSpeed) f s

/-- DECODE.KEYSTROKE (R173). -/
def execDecodeKeystroke (f : Frame) (s : State) : Host.Outcome State Fault Refusal :=
  classifyInto (Kind.fromOn .keystroke) f s

/-- DECODE.WAYPOINT_NAME (R179). -/
def execDecodeWaypointName (f : Frame) (s : State) : Host.Outcome State Fault Refusal :=
  classifyInto (Kind.fromOn .waypointName) f s

/-- DECODE.NAV_TO_WAYPOINT (R183). -/
def execDecodeNavToWaypoint (f : Frame) (s : State) : Host.Outcome State Fault Refusal :=
  classifyInto (Kind.fromOn .navToWaypoint) f s

/-- DECODE.CALIBRATION (R186). -/
def execDecodeCalibration (f : Frame) (s : State) : Host.Outcome State Fault Refusal :=
  classifyInto (Kind.fromOn .calibration) f s

/-- DECODE.DEADBAND (R188). -/
def execDecodeDeadband (f : Frame) (s : State) : Host.Outcome State Fault Refusal :=
  classifyInto (Kind.fromOn .deadband) f s

/-- DECODE.LAMP (R191). -/
def execDecodeLamp (f : Frame) (s : State) : Host.Outcome State Fault Refusal :=
  classifyInto (Kind.fromOn .lamp) f s

/-- DECODE.STW (R195). -/
def execDecodeStw (f : Frame) (s : State) : Host.Outcome State Fault Refusal :=
  classifyInto (Kind.fromOn .stw) f s

/-- DECODE.CC_WARNINGS (R193). -/
def execDecodeCcWarnings (f : Frame) (s : State) : Host.Outcome State Fault Refusal :=
  classifyInto (Kind.fromOn .ccWarnings) f s

/-- DECODE.AP_WIND_STATUS (R197). -/
def execDecodeApWindStatus (f : Frame) (s : State) : Host.Outcome State Fault Refusal :=
  classifyInto (Kind.fromOn .apWindStatus) f s

end Sys2Proof.Machine
end

