-- ==== Sys2Proof/Machine/FrameAssembler.lean ====
section
/-! DEFINITION. The Frame Assembler's events BYTE_IN, SOURCE_CLOSED, CANCEL and NOP (spec/40_frame_assembler.md). -/

namespace Sys2Proof.Machine

/-- NOP (R106): the defaults of R100 only. -/
def execNop (s : State) : Host.Outcome State Fault Refusal := .next (s.presentRx .none 0)

/-- BYTE_IN in S_CMD: the command byte (R101). -/
def acceptCommand (b : Byte) (s : State) : Host.Outcome State Fault Refusal :=
  match s.bufWrite 0 b with
  | .error e => .fault e
  | .ok t => .next ({ t with faCount := 1, faState := .sAttr }.presentRx .needMore 0)

/-- BYTE_IN in S_ATTR: the attribute byte, which gives the expected length (R101, R102). -/
def acceptAttribute (b : Byte) (s : State) : Host.Outcome State Fault Refusal :=
  match s.bufWrite 1 b with
  | .error e => .fault e
  | .ok t => .next ({ t with faCount := 2, faLen := framelen b, faState := .sPayload }.presentRx .needMore 0)

/-- The last byte of a frame (R103): the frame is the bytes held and this one; the Frame Assembler is back in S_CMD, and
the frame is classified. -/
def completeFrame (b : Byte) (s : State) : Host.Outcome State Fault Refusal :=
  match s.bufReadPrefix (s.faLen.toNat - 1) with
  | .error e => .fault e
  | .ok held => classifyInto Kind.all (held ++ [b]) s.dropFrame

/-- BYTE_IN in S_PAYLOAD (R101, R103). -/
def acceptPayload (b : Byte) (s : State) : Host.Outcome State Fault Refusal :=
  match s.bufWrite s.faCount.toNat b with
  | .error e => .fault e
  | .ok t =>
    if s.faCount.toNat + 1 = s.faLen.toNat then completeFrame b t
    else .next ({ t with faCount := s.faCount + 1 }.presentRx .needMore 0)

/-- BYTE_IN (R101). -/
def execByteIn (b : Byte) (s : State) : Host.Outcome State Fault Refusal :=
  match s.faState with
  | .sCmd => acceptCommand b s
  | .sAttr => acceptAttribute b s
  | .sPayload => acceptPayload b s

/-- SOURCE_CLOSED (R104): no error at a frame boundary, else a framing error and the partial frame dropped. -/
def execSourceClosed (s : State) : Host.Outcome State Fault Refusal :=
  match s.faState with
  | .sCmd => .next (s.presentRx .none 0)
  | .sAttr => .next (s.dropFrame.presentRx (.framingError s.faCount) 0)
  | .sPayload => .next (s.dropFrame.presentRx (.framingError s.faCount) 0)

/-- CANCEL (R105). -/
def execCancel (s : State) : Host.Outcome State Fault Refusal := .next (s.dropFrame.presentRx (.cancelled s.faCount) 0)

end Sys2Proof.Machine
end

