-- ==== Sys2Proof/Machine/Illegal.lean ====
section
/-! DEFINITION. The reserved event codes, OP 0x5 to 0xF: each is an illegal event (spec/30_encoding.md R73, R74, spec/60_exceptions.md R305). -/

namespace Sys2Proof.Machine

/-- ILLEGAL.OP5 (R305). -/
def execIllegalOp5 (_kind : Nibble) (_data : Byte) (s : State) : Host.Outcome State Fault Refusal := .next s.illegalEvent

/-- ILLEGAL.OP6 (R305). -/
def execIllegalOp6 (_kind : Nibble) (_data : Byte) (s : State) : Host.Outcome State Fault Refusal := .next s.illegalEvent

/-- ILLEGAL.OP7 (R305). -/
def execIllegalOp7 (_kind : Nibble) (_data : Byte) (s : State) : Host.Outcome State Fault Refusal := .next s.illegalEvent

/-- ILLEGAL.OP8 (R305). -/
def execIllegalOp8 (_kind : Nibble) (_data : Byte) (s : State) : Host.Outcome State Fault Refusal := .next s.illegalEvent

/-- ILLEGAL.OP9 (R305). -/
def execIllegalOp9 (_kind : Nibble) (_data : Byte) (s : State) : Host.Outcome State Fault Refusal := .next s.illegalEvent

/-- ILLEGAL.OPA (R305). -/
def execIllegalOpA (_kind : Nibble) (_data : Byte) (s : State) : Host.Outcome State Fault Refusal := .next s.illegalEvent

/-- ILLEGAL.OPB (R305). -/
def execIllegalOpB (_kind : Nibble) (_data : Byte) (s : State) : Host.Outcome State Fault Refusal := .next s.illegalEvent

/-- ILLEGAL.OPC (R305). -/
def execIllegalOpC (_kind : Nibble) (_data : Byte) (s : State) : Host.Outcome State Fault Refusal := .next s.illegalEvent

/-- ILLEGAL.OPD (R305). -/
def execIllegalOpD (_kind : Nibble) (_data : Byte) (s : State) : Host.Outcome State Fault Refusal := .next s.illegalEvent

/-- ILLEGAL.OPE (R305). -/
def execIllegalOpE (_kind : Nibble) (_data : Byte) (s : State) : Host.Outcome State Fault Refusal := .next s.illegalEvent

/-- ILLEGAL.OPF (R305). -/
def execIllegalOpF (_kind : Nibble) (_data : Byte) (s : State) : Host.Outcome State Fault Refusal := .next s.illegalEvent

end Sys2Proof.Machine
end

