-- ==== Sys2Proof/Machine/Dispatch.lean ====
section
/-! DEFINITION. The dispatch of the instructions to their meanings, one arm per row of spec/opcode_table.json. -/

namespace Sys2Proof.Machine

/-- The meaning of an instruction. -/
def exec (i : Instr) (s : State) : Host.Outcome State Fault Refusal :=
  match i with
  | .nop => Sys2Proof.Machine.execNop s
  | .byteIn data => Sys2Proof.Machine.execByteIn data s
  | .sourceClosed => Sys2Proof.Machine.execSourceClosed s
  | .cancel => Sys2Proof.Machine.execCancel s
  | .encode kind => Sys2Proof.Machine.execEncode kind s
  | .decodeHeadingCourse frame => Sys2Proof.Machine.execDecodeHeadingCourse frame s
  | .decodeWindAngle frame => Sys2Proof.Machine.execDecodeWindAngle frame s
  | .decodeWindSpeed frame => Sys2Proof.Machine.execDecodeWindSpeed frame s
  | .decodeKeystroke frame => Sys2Proof.Machine.execDecodeKeystroke frame s
  | .decodeWaypointName frame => Sys2Proof.Machine.execDecodeWaypointName frame s
  | .decodeNavToWaypoint frame => Sys2Proof.Machine.execDecodeNavToWaypoint frame s
  | .decodeCalibration frame => Sys2Proof.Machine.execDecodeCalibration frame s
  | .decodeDeadband frame => Sys2Proof.Machine.execDecodeDeadband frame s
  | .decodeLamp frame => Sys2Proof.Machine.execDecodeLamp frame s
  | .decodeStw frame => Sys2Proof.Machine.execDecodeStw frame s
  | .decodeCcWarnings frame => Sys2Proof.Machine.execDecodeCcWarnings frame s
  | .decodeApWindStatus frame => Sys2Proof.Machine.execDecodeApWindStatus frame s
  | .encHeadingCourse => Sys2Proof.Machine.execEncHeadingCourse s
  | .encWindAngle => Sys2Proof.Machine.execEncWindAngle s
  | .encWindSpeed => Sys2Proof.Machine.execEncWindSpeed s
  | .encKeystroke => Sys2Proof.Machine.execEncKeystroke s
  | .encWaypointName => Sys2Proof.Machine.execEncWaypointName s
  | .encNavToWaypoint => Sys2Proof.Machine.execEncNavToWaypoint s
  | .encCalibration => Sys2Proof.Machine.execEncCalibration s
  | .encDeadband => Sys2Proof.Machine.execEncDeadband s
  | .encLamp => Sys2Proof.Machine.execEncLamp s
  | .encStw => Sys2Proof.Machine.execEncStw s
  | .encCcWarnings => Sys2Proof.Machine.execEncCcWarnings s
  | .encApWindStatus => Sys2Proof.Machine.execEncApWindStatus s
  | .illegalOp5 kind data => Sys2Proof.Machine.execIllegalOp5 kind data s
  | .illegalOp6 kind data => Sys2Proof.Machine.execIllegalOp6 kind data s
  | .illegalOp7 kind data => Sys2Proof.Machine.execIllegalOp7 kind data s
  | .illegalOp8 kind data => Sys2Proof.Machine.execIllegalOp8 kind data s
  | .illegalOp9 kind data => Sys2Proof.Machine.execIllegalOp9 kind data s
  | .illegalOpA kind data => Sys2Proof.Machine.execIllegalOpA kind data s
  | .illegalOpB kind data => Sys2Proof.Machine.execIllegalOpB kind data s
  | .illegalOpC kind data => Sys2Proof.Machine.execIllegalOpC kind data s
  | .illegalOpD kind data => Sys2Proof.Machine.execIllegalOpD kind data s
  | .illegalOpE kind data => Sys2Proof.Machine.execIllegalOpE kind data s
  | .illegalOpF kind data => Sys2Proof.Machine.execIllegalOpF kind data s

end Sys2Proof.Machine
end

