-- ==== Sys2Proof/Machine/Fetch.lean ====
section
/-! DEFINITION. Taking the host's next presentation and running it (spec/30_encoding.md R72, spec/60_exceptions.md R305, R309). -/

namespace Sys2Proof.Machine

/-- A step on an event word: an illegal word raises its fault (R305); every other word runs as the instruction it decodes
to. -/
def runEvent (e : EventWord) (s : State) : Host.Outcome State Fault Refusal :=
  match decodeEvent e with
  | .error _ => .next s.illegalEvent
  | .ok i => exec i s

/-- Taking the next presentation and running it. An illegal registry is refused (10_state.md R39). Without a presentation
the BFC holds its state (R72; log 2). `rst` overrides the event (R309). -/
def fetchAndRun (s : State) : Host.Outcome State Fault Refusal :=
  if s.registry.legal then
    match s.take with
    | .idle => .next s
    | .reset t => .next t.applyReset
    | .event e t => runEvent e t
  else .refused .illegalRegistry

end Sys2Proof.Machine
end

