-- ==== Sys2Proof/Machine/Step.lean ====
section
/-! DEFINITION. One step of the BFC (spec/30_encoding.md R72, spec/60_exceptions.md R309). -/

namespace Sys2Proof.Machine

/-- One step: the next presentation is taken and run. -/
def step (s : State) : Host.Outcome State Fault Refusal := fetchAndRun s

/-- The state whose next step runs the instruction whose bits, numbered as the opcode table numbers them, are w (log 3,
log 4): an event word is presented; of a frame, all bytes but the last are held, and the last is presented. -/
def State.withFetchWord (s : State) (_nbits w : Nat) : State :=
  s.presentCode (tableCode s.registry (BitVec.ofNat 16 w))

end Sys2Proof.Machine
end

