-- ==== Sys2Proof/Safety.lean ====
section
/-! DEFINITION. What counts as a good state and a good end of a run, in the terms claims use (spec/10_state.md R21 to R28, spec/70_reset_and_hazards.md R346). -/

namespace Sys2Proof.Machine

/-- A run that ends in this state ends well as far as the state shows it: no fault, and no partial frame (R346). -/
abbrev State.endsWell (s : State) : Prop := s.fault.flag = false ∧ s.faState = .sCmd

/-- FA_COUNT in each FA_STATE, and the bounds of FA_LEN in S_PAYLOAD (10_state.md R22, R23). -/
abbrev State.countInv (s : State) : Prop :=
  match s.faState with
  | .sCmd => s.faCount = 0
  | .sAttr => s.faCount = 1
  | .sPayload => 2 ≤ s.faCount.toNat ∧ s.faCount.toNat < s.faLen.toNat ∧ s.faLen.toNat ≤ 18

/-- BUF holds the partial frame and nothing else: its addresses are 0 to FA_COUNT − 1 (20_memory.md R42). -/
abbrev State.bufInv (s : State) : Prop := s.buf.map Prod.fst = List.range s.faCount.toNat

/-- In S_PAYLOAD, FA_LEN is what the attribute byte held in BUF announces (40_frame_assembler.md R102). -/
abbrev State.lengthInv (s : State) : Prop :=
  s.faState = .sPayload → ∃ b, s.buf.read 1 = some b ∧ s.faLen = framelen b

/-- FAULT: the code is FAULT_NONE exactly while the flag is 0 (10_state.md R28). -/
abbrev State.faultInv (s : State) : Prop := s.fault.flag = false ↔ s.fault.code = .none

/-- What RX carries has the size the spec gives it: a frame is whole, and at most 17 bytes are discarded, at least one by
a framing error (10_state.md R25, 40_frame_assembler.md R104, R105). -/
abbrev State.rxInv (s : State) : Prop :=
  match s.rx with
  | .message _ f => wholeFrame f = true
  | .unknown f => wholeFrame f = true
  | .malformed f => wholeFrame f = true
  | .framingError n => 1 ≤ n.toNat ∧ n.toNat ≤ 17
  | .cancelled n => n.toNat ≤ 17
  | .none => True
  | .needMore => True

/-- A frame in TX is whole: its length is the one its attribute byte announces (43_codecs.md R201). -/
abbrev State.txInv (s : State) : Prop :=
  match s.tx with
  | .frame f => wholeFrame f = true
  | .none => True
  | .unsupported => True
  | .outOfRange => True

/-- The invariant of the BFC: what holds in every state a run reaches. -/
structure State.Inv (s : State) : Prop where
  /-- The registry is legal (R39). -/
  registry : s.registry.legal = true
  /-- FA_COUNT agrees with FA_STATE (R22). -/
  count : s.countInv
  /-- BUF holds the partial frame (20_memory.md R42). -/
  buf : s.bufInv
  /-- FA_LEN agrees with the attribute byte (40_frame_assembler.md R102). -/
  length : s.lengthInv
  /-- FAULT's flag and code agree (R28). -/
  fault : s.faultInv
  /-- RX carries well-sized results (R25). -/
  rx : s.rxInv
  /-- TX carries a whole frame (R26). -/
  tx : s.txInv

/-- The instructions of the receive path: BYTE_IN, SOURCE_CLOSED and CANCEL. -/
def receives : Instr → Bool
  | .byteIn _ => true
  | .sourceClosed => true
  | .cancel => true
  | _ => false

/-- The ENCODE event and the rows that refine it. -/
def encodes (i : Instr) : Prop := (∃ k, i = .encode k) ∨ ∃ k, i = encRow k

/-- The rows of the reserved OP codes. -/
def reserved (i : Instr) : Prop :=
  ∃ k d, i ∈ [.illegalOp5 k d, .illegalOp6 k d, .illegalOp7 k d, .illegalOp8 k d, .illegalOp9 k d, .illegalOpA k d,
    .illegalOpB k d, .illegalOpC k d, .illegalOpD k d, .illegalOpE k d, .illegalOpF k d]

end Sys2Proof.Machine
end

