-- ==== Sys2Proof/Certificates/Slice0/Obligations.lean ====
section
/-! DEFINITION. The statements for the provers, each formalising rules of spec/ as its docstring says. -/

open Sys2Proof Sys2Proof.Machine

namespace Sys2Proof.Claims

/-- The event words 30_encoding.md R74 calls illegal, in terms of the word as a number: a reserved OP, KIND not 0 outside
ENCODE, KIND 12 or more in ENCODE, DATA not 0 outside BYTE_IN. -/
def illegalWord (e : EventWord) : Prop :=
  5 ≤ e.toNat % 16 ∨ (e.toNat / 16 % 16 ≠ 0 ∧ e.toNat % 16 ≠ 4) ∨ (12 ≤ e.toNat / 16 % 16 ∧ e.toNat % 16 = 4) ∨
    (e.toNat / 256 ≠ 0 ∧ e.toNat % 16 ≠ 1)

/-- The state after an illegal event (60_exceptions.md R305), written out. -/
def afterIllegalEvent (s : State) : State :=
  { s with rx := .none, tx := .none, diag := 0, fault := if s.fault.flag then s.fault else ⟨true, .illegalEvent⟩ }

/-- RX and DIAG show the classification of a frame (41_dispatcher.md R120). -/
def showsReport (t : State) (f : Frame) : Report → Prop
  | .unknown => t.rx = .unknown f ∧ t.diag = 0
  | .malformed => t.rx = .malformed f ∧ t.diag = 0
  | .message fields diag => t.rx = .message fields f ∧ t.diag = diag
  | .helperDomain => False

/-- Presentations that deliver the bytes of a frame, one BYTE_IN each (30_encoding.md R77, FRAME). -/
def deliver (f : Frame) (ps : List Presentation) : Prop :=
  ps.map Presentation.ev = f.map (fun b => eventWord 0x1 0 b) ∧ ∀ p ∈ ps, p.rst = false

/-- The character a waypoint name's character comes back as (43_codecs.md R180): lowercase letters uppercased, the
canonical set 0x30 to 0x60 unchanged, everything else '0'. -/
def canonicalChar (ch : Byte) : Byte :=
  if 0x61 ≤ ch ∧ ch ≤ 0x7A then ch - 0x20 else if 0x30 ≤ ch ∧ ch ≤ 0x60 then ch else 0x30

/-- The record a frame encoded from an operand record decodes to (43_codecs.md R199). -/
def roundTrips (r : Registry) (o : Opnd) : Fields → Prop
  | .headingCourse h c tail =>
    h = o.heading ∧ c = o.courseHalf ∧ tail = o.tail.toList.take (r.lenHeadingCourse - 4)
  | .windAngle a aux => a = o.angleHalf ∧ aux = 0
  | .windSpeed unit tenths aux => unit = false ∧ tenths = o.windTenths ∧ aux = 0
  | .keystroke key aux mid => key = o.key ∧ aux = o.aux ∧ mid = o.mid.toList.take (r.lenKeystroke - 4)
  | .waypointName chars aux =>
    (∀ i : Fin 4, chars[i] = if i.val < o.nameLength.toNat then canonicalChar o.chars[i] else 0x30) ∧ aux = 0
  | .lamp level aux => level.toNat = o.level.toNat ∧ aux = 0
  | .stw tenths aux => tenths = o.stwTenths ∧ aux = 0
  | _ => False

/-- The step from s to t is the BYTE_IN with byte b that completes the frame f: the bytes held, and b
(40_frame_assembler.md R103). -/
def completes (s t : State) (b : Byte) (f : Frame) : Prop :=
  s.Inv ∧ s.faState = .sPayload ∧ s.faCount.toNat + 1 = s.faLen.toNat ∧
    (∃ held, s.bufReadPrefix s.faCount.toNat = .ok held ∧ f = held ++ [b]) ∧ exec (.byteIn b) s = .next t

/-- No candidate of a frame but kind k matches it. -/
def noOtherMatches (r : Registry) (k : Kind) (f : Frame) : Prop :=
  ∀ j, j ≠ k → r.isCandidate f j = true → matchKind r j f = false

end Sys2Proof.Claims

open Sys2Proof.Claims

/-! ### Encoding -/

/-- Decoding the code of a well-formed instruction gives the instruction, for every registry, every event and every frame
(30_encoding.md R60, R62, R70, R73; which row an ENCODE word gives, and that frames are codes of rows, are the model's
choices, log 5 and log 6). -/
def Obligations.DecodeEncodeAgree : Prop :=
  ∀ (r : Registry) (i : Instr), WellFormed r i = true → decode r (encode i) = .ok i

/-- What the decoder accepts is well-formed, and its code is the one that was decoded: no bit is dropped (30_encoding.md
R60, R70, R73; which row an ENCODE word gives, and that frames are codes of rows, are the model's choices, log 5 and
log 6). -/
def Obligations.DecodedCodesAreEncodings : Prop :=
  ∀ (r : Registry) (c : Code) (i : Instr), decode r c = .ok i → WellFormed r i = true ∧ encode i = c

/-- Words written out from the encodings: events from 30_encoding.md R73, R77, frames from 95_test_vectors.md. That 0x0094
gives the ENC row of its kind and not ENCODE, and that 0x00F4, which R74 calls illegal, is accepted as the ENCODE row, are
the model's choices (log 5). The default command bytes are the spec's from general knowledge (log 13); only kinds with
fixed ones stand here. -/
def Obligations.SampleWordsDecode : Prop :=
  decodeEvent 0x0000 = .ok .nop ∧ decodeEvent 0x2001 = .ok (.byteIn 0x20) ∧ decodeEvent 0x0002 = .ok .sourceClosed ∧
    decodeEvent 0x0003 = .ok .cancel ∧ decodeEvent 0x0094 = .ok .encStw ∧ decodeEvent 0x00F4 = .ok (.encode 0xF) ∧
    decodeEvent 0x0005 = .ok (.illegalOp5 0 0) ∧ decodeEvent 0x0010 = .error .kindField ∧
    decodeEvent 0x0102 = .error .dataField ∧
    decodeFrame defaultRegistry [0x30, 0x00, 0x04] = .ok (.decodeLamp [0x30, 0x00, 0x04]) ∧
    decodeFrame defaultRegistry [0x20, 0x01, 0x00, 0x64] = .ok (.decodeStw [0x20, 0x01, 0x00, 0x64]) ∧
    decodeFrame defaultRegistry [0x30, 0x01, 0x04, 0x00] = .error .noCandidate

/-- Candidacy is the masked comparison of the selection word, as 30_encoding.md R62 (which the spec marks as derived)
says. -/
def Obligations.CandidacyIsSelectionWordTest : Prop :=
  ∀ (r : Registry) (f : Frame) (k : Kind), r.legal = true → wholeFrame f = true →
    (r.isCandidate f k = true ↔
      u16be (byteAt f 0) (byteAt f 1) &&& 0xFF0F = ((r.cmd k).setWidth 16 <<< 8) ||| BitVec.ofNat 16 (r.len k - 3))

/-! ### The step -/

/-- An illegal event word raises the sticky fault and changes nothing but the per-step outputs, and no other word raises
a fault (30_encoding.md R74). -/
def Obligations.IllegalWordsRaiseTheFault : Prop :=
  ∀ (s : State) (p : Presentation) (rest : List Presentation),
    s.registry.legal = true → s.input = p :: rest → p.rst = false →
    (illegalWord p.ev → step s = .next (afterIllegalEvent { s with input := rest, opnd := p.opnd })) ∧
    (¬ illegalWord p.ev → ∀ t, step s = .next t → t.fault = s.fault)

/-- A step runs the instruction its event word decodes to, on the state with the presentation taken off and `opnd` on
its port (30_encoding.md R72; the list of presentations is the model's, log 1). -/
def Obligations.StepRunsDecodedEvent : Prop :=
  ∀ (s : State) (p : Presentation) (rest : List Presentation) (i : Instr),
    s.registry.legal = true → s.input = p :: rest → p.rst = false → decodeEvent p.ev = .ok i →
    step s = exec i { s with input := rest, opnd := p.opnd }

/-- The BYTE_IN that completes a frame runs the frame's DECODE instruction on the state at the frame boundary, and
reports RX_UNKNOWN where the frame is no instruction (40_frame_assembler.md R103, 41_dispatcher.md R120). Three things
here are the model's: that the DECODE rows are instructions of this form (log 6), that FA_LEN, which the spec leaves
unspecified at a frame boundary, is kept over the completion (log 10), and that BUF, whose contents it leaves unspecified
there, lists nothing (log 11). -/
def Obligations.CompletingByteRunsDecodeRow : Prop :=
  ∀ (s : State) (b : Byte), s.Inv → s.faState = .sPayload → s.faCount.toNat + 1 = s.faLen.toNat →
    ∃ held, s.bufReadPrefix s.faCount.toNat = .ok held ∧ wholeFrame (held ++ [b]) = true ∧
      (∀ i, decodeFrame s.registry (held ++ [b]) = .ok i →
        exec (.byteIn b) s = exec i { s with faState := .sCmd, faCount := 0, buf := [] }) ∧
      ∀ e, decodeFrame s.registry (held ++ [b]) = .error e →
        exec (.byteIn b) s = .next { s with
          faState := .sCmd, faCount := 0, buf := [], rx := .unknown (held ++ [b]), tx := .none, diag := 0 }

/-- A step with `rst` asserted ignores `ev`, writes the reset values and drops the partial frame without a report, the
next BYTE_IN is a command byte, and power-up holds the same values (70_reset_and_hazards.md R340). -/
def Obligations.ResetStepGivesResetValues : Prop :=
  (∀ (s : State) (p : Presentation) (rest : List Presentation),
    s.registry.legal = true → s.input = p :: rest → p.rst = true →
    ∃ t, step s = .next t ∧ t.faState = .sCmd ∧ t.faCount = 0 ∧ t.rx = .none ∧ t.tx = .none ∧ t.diag = 0 ∧
      t.fault.flag = false ∧ t.fault.code = .none ∧ t.registry = s.registry ∧ t.input = rest ∧
      ∀ b, ∃ u, exec (.byteIn b) t = .next u ∧ u.faState = .sAttr ∧ u.faCount = 1 ∧ u.bufRead 0 = .ok b) ∧
  State.reset.faState = .sCmd ∧ State.reset.faCount = 0 ∧ State.reset.rx = .none ∧ State.reset.tx = .none ∧
    State.reset.diag = 0 ∧ State.reset.fault.flag = false ∧ State.reset.fault.code = .none

/-- While nothing is presented the state holds. That a step without a presentation exists and answers the same state is
the model's choice (log 2); 30_encoding.md R72 says that the BFC holds its state. -/
def Obligations.NothingPresentedHoldsTheState : Prop :=
  ∀ s : State, s.registry.legal = true → s.input = [] → step s = .next s

/-- A registry that breaks 10_state.md R39 (which the spec marks as derived) or has a LEN_k outside 3..18 is refused,
whatever is presented. -/
def Obligations.IllegalRegistryIsRefused : Prop :=
  ∀ s : State,
    (s.registry.lenHeadingCourse < 4 ∨ s.registry.lenKeystroke < 4 ∨ s.registry.lenNavToWaypoint ≠ 9 ∨
      (∃ k, s.registry.len k < 3 ∨ 18 < s.registry.len k)) →
    step s = .refused .illegalRegistry

/-! ### Frame Assembler events -/

/-- NOP: the word 0x0000, which writes the defaults and nothing else (40_frame_assembler.md R106). -/
def Obligations.NopWritesDefaultsOnly : Prop :=
  decodeEvent 0x0000 = .ok .nop ∧ ∀ s : State, exec .nop s = .next { s with rx := .none, tx := .none, diag := 0 }

/-- BYTE_IN in every state of the Frame Assembler: the command byte, the attribute byte with the expected length, a
payload byte, and the byte that completes a frame of exactly FA_LEN bytes, which is classified in the same step and not
retained (40_frame_assembler.md R101, R102, R103). No fault is raised. -/
def Obligations.ByteInAssemblesFrames : Prop :=
  (∀ b : Byte, decodeEvent (BitVec.ofNat 16 (b.toNat * 256 + 1)) = .ok (.byteIn b)) ∧
  ∀ (s : State) (b : Byte), s.Inv →
    ∃ t, exec (.byteIn b) s = .next t ∧ t.tx = .none ∧ t.fault = s.fault ∧ t.registry = s.registry ∧
      t.opnd = s.opnd ∧ t.input = s.input ∧
      (s.faState = .sCmd →
        t.faState = .sAttr ∧ t.faCount = 1 ∧ t.faLen = s.faLen ∧ t.bufRead 0 = .ok b ∧ t.rx = .needMore ∧ t.diag = 0) ∧
      (s.faState = .sAttr →
        t.faState = .sPayload ∧ t.faCount = 2 ∧ t.faLen.toNat = b.toNat % 16 + 3 ∧ t.bufRead 0 = s.bufRead 0 ∧
          t.bufRead 1 = .ok b ∧ t.rx = .needMore ∧ t.diag = 0) ∧
      (s.faState = .sPayload → s.faCount.toNat + 1 ≠ s.faLen.toNat →
        t.faState = .sPayload ∧ t.faCount.toNat = s.faCount.toNat + 1 ∧ t.faLen = s.faLen ∧
          (∀ a < s.faCount.toNat, t.bufRead a = s.bufRead a) ∧ t.bufRead s.faCount.toNat = .ok b ∧
          t.rx = .needMore ∧ t.diag = 0) ∧
      (s.faState = .sPayload → s.faCount.toNat + 1 = s.faLen.toNat →
        ∃ held, s.bufReadPrefix s.faCount.toNat = .ok held ∧ (held ++ [b]).length = s.faLen.toNat ∧
          t.faState = .sCmd ∧ t.faCount = 0 ∧ (∀ a, t.bufRead a = .error .bufNoValue) ∧
          showsReport t (held ++ [b]) (classify s.registry (held ++ [b])))

/-- SOURCE_CLOSED: the word 0x0002; no error at a frame boundary, else a framing error that reports the bytes discarded
(one in S_ATTR), after which no partial frame is held (40_frame_assembler.md R104). -/
def Obligations.SourceClosedDropsPartialFrame : Prop :=
  decodeEvent 0x0002 = .ok .sourceClosed ∧
  ∀ s : State,
    (s.faState = .sCmd → exec .sourceClosed s = .next { s with rx := .none, tx := .none, diag := 0 }) ∧
    (s.faState ≠ .sCmd → ∃ t, exec .sourceClosed s = .next t ∧ t.rx = .framingError s.faCount ∧ t.tx = .none ∧
      t.diag = 0 ∧ t.faState = .sCmd ∧ t.faCount = 0 ∧ (∀ a, t.bufRead a = .error .bufNoValue) ∧
      t.fault = s.fault ∧ t.registry = s.registry ∧ t.opnd = s.opnd ∧ t.input = s.input ∧
      (s.countInv → s.faState = .sAttr → t.rx = .framingError 1) ∧
      (s.countInv → s.faState = .sPayload → 2 ≤ s.faCount.toNat ∧ s.faCount.toNat ≤ s.faLen.toNat - 1))

/-- CANCEL: the word 0x0003; always RX_CANCELLED with the bytes discarded, none in S_CMD, after which no partial frame is
held and the next byte is a command byte (40_frame_assembler.md R105). -/
def Obligations.CancelDropsPartialFrame : Prop :=
  decodeEvent 0x0003 = .ok .cancel ∧
  ∀ s : State, ∃ t, exec .cancel s = .next t ∧ t.rx = .cancelled s.faCount ∧ t.tx = .none ∧ t.diag = 0 ∧
    t.faState = .sCmd ∧ t.faCount = 0 ∧ (∀ a, t.bufRead a = .error .bufNoValue) ∧
    t.fault = s.fault ∧ t.registry = s.registry ∧ t.opnd = s.opnd ∧ t.input = s.input ∧
    (s.countInv → s.faState = .sCmd → t.rx = .cancelled 0)

/-- Framing never desynchronises (40_frame_assembler.md R107, which the spec marks as derived; 20_memory.md R50): from
every frame boundary the bytes of any whole frame, presented one by one, are recovered as that frame, classified in the
last step, whatever its classification, and the machine is at a frame boundary again. -/
def Obligations.FrameFedByteByByteIsClassified : Prop :=
  ∀ (s : State) (f : Frame) (ps rest : List Presentation),
    s.Inv → s.faState = .sCmd → wholeFrame f = true → deliver f ps → s.input = ps ++ rest →
    ∃ t, core.run f.length s = .next t ∧ t.Inv ∧ t.faState = .sCmd ∧ t.input = rest ∧ t.registry = s.registry ∧
      t.fault = s.fault ∧ t.tx = .none ∧ showsReport t f (classify s.registry f)

/-! ### Classification -/

/-- Among the candidates, in ascending kind id, the first whose predicate holds wins: its decoder runs, and the BYTE_IN
that completes the frame reports its record and DIAG (41_dispatcher.md R121). -/
def Obligations.FirstMatchingCandidateWins : Prop :=
  ∀ (s t : State) (b : Byte) (f : Frame) (k : Kind), completes s t b f →
    f.head? = some (s.registry.cmd k) → f.length = s.registry.len k → matchKind s.registry k f = true →
    (∀ j, j.id < k.id → f.head? = some (s.registry.cmd j) → f.length = s.registry.len j →
      matchKind s.registry j f = false) →
    ∃ fields diag, decodeKind s.registry k f = some (fields, diag) ∧ fields.kind = k ∧ t.rx = .message fields f ∧
      t.diag = diag

/-- The BYTE_IN that completes a frame reports RX_UNKNOWN, with the frame, exactly where no kind has the frame's command
byte and length (41_dispatcher.md R122). -/
def Obligations.UnknownExactlyWithoutCandidates : Prop :=
  ∀ (s t : State) (b : Byte) (f : Frame), completes s t b f →
    (t.rx = .unknown f ↔ ∀ k, ¬ (f.head? = some (s.registry.cmd k) ∧ f.length = s.registry.len k))

/-- The BYTE_IN that completes a frame reports RX_MALFORMED, with the frame, exactly where candidates exist and none
matches (41_dispatcher.md R123). -/
def Obligations.MalformedExactlyWhenNoneMatches : Prop :=
  ∀ (s t : State) (b : Byte) (f : Frame), completes s t b f →
    (t.rx = .malformed f ↔
      (∃ k, f.head? = some (s.registry.cmd k) ∧ f.length = s.registry.len k) ∧
      ∀ k, f.head? = some (s.registry.cmd k) → f.length = s.registry.len k → matchKind s.registry k f = false)

/-- The disambiguation property (41_dispatcher.md R127, which the spec marks as derived): a frame that satisfies the
predicates of two candidates is decoded as the lower kind id; a registry no two kinds of which share command byte and
length is unambiguous, and so is the default one; and under an unambiguous registry a candidate that matches is the kind
that is delivered, whatever the others. That the obligation stands beside Registry.legal and is no part of it is deduced
from 10_state.md R39 (log 26). -/
def Obligations.DisambiguationProperty : Prop :=
  (∀ (s t : State) (b : Byte) (f : Frame) (i j : Kind), completes s t b f → i.id < j.id →
    s.registry.isCandidate f i = true → s.registry.isCandidate f j = true → matchKind s.registry i f = true →
    matchKind s.registry j f = true →
    ∃ fields, t.rx = .message fields f ∧ fields.kind.id ≤ i.id ∧
      ((∀ h, h.id < i.id → s.registry.isCandidate f h = true → matchKind s.registry h f = false) → fields.kind = i)) ∧
  (∀ r : Registry, (∀ i j : Kind, i.id < j.id → r.cmd i = r.cmd j → r.len i ≠ r.len j) → r.unambiguous) ∧
  defaultRegistry.unambiguous ∧
  ∀ (s t : State) (b : Byte) (f : Frame) (k : Kind), completes s t b f → s.registry.unambiguous →
    s.registry.isCandidate f k = true → matchKind s.registry k f = true →
    ∃ fields diag, decodeKind s.registry k f = some (fields, diag) ∧ fields.kind = k ∧ t.rx = .message fields f ∧
      t.diag = diag

/-- CLASSIFY is total and never faults (41_dispatcher.md R125, which the spec marks as derived): under a legal registry
every DECODE instruction, on every frame, answers a next state and raises no fault. R125 and 43_codecs.md R160 define a
decoder on the frames that passed its kind's predicate; that the DECODE row also runs on a frame which that predicate
refuses, or of which its kind is no candidate, is the model's choice (log 6). -/
def Obligations.DecodeRowsNeverStop : Prop :=
  ∀ (s : State) (k : Kind) (f : Frame), s.registry.legal = true →
    ∃ t, exec (decodeRow k f) s = .next t ∧ t.fault = s.fault

/-- A DECODE instruction whose kind is a candidate, where neither it nor a later candidate matches, reports RX_MALFORMED
with the frame and changes nothing else (41_dispatcher.md R120; the fall-through is the model's reading, log 6). -/
def Obligations.DecodeRowWithoutMatchIsMalformed : Prop :=
  ∀ (s : State) (k : Kind) (f : Frame), s.registry.legal = true → s.registry.isCandidate f k = true →
    (∀ j, k.id ≤ j.id → s.registry.isCandidate f j = true → matchKind s.registry j f = false) →
    exec (decodeRow k f) s = .next { s with rx := .malformed f, tx := .none, diag := 0 }

/-! ### Decoders -/

/-- DECODE.HEADING_COURSE: the heading formula with BITCOUNT2 as the sum of the two upper bits of the attribute byte, and
the course in half-degrees, both exact; the rest is the tail (43_codecs.md R162, 42_bit_helpers.md R145, R146; that the
course byte is f[3] the spec takes from general knowledge, log 18). -/
def Obligations.DecodeHeadingCourseDelivers : Prop :=
  ∀ (s : State) (a vw x : Byte) (tail : List Byte), s.registry.legal = true →
    tail.length + 4 = s.registry.lenHeadingCourse →
    ∃ (h : BitVec 9) (c : BitVec 10),
      h.toNat = a.toNat / 16 % 4 * 90 + vw.toNat % 64 * 2 + (a.toNat / 64 % 2 + a.toNat / 128) ∧
      c.toNat = vw.toNat / 64 * 180 + x.toNat ∧
      exec (.decodeHeadingCourse (s.registry.cmdHeadingCourse :: a :: vw :: x :: tail)) s = .next { s with
        rx := .message (.headingCourse h c tail) (s.registry.cmdHeadingCourse :: a :: vw :: x :: tail)
        tx := .none
        diag := 0 }

/-- DECODE.WIND_ANGLE: half-degrees, most significant byte first, delivered as computed (43_codecs.md R165). -/
def Obligations.DecodeWindAngleDelivers : Prop :=
  ∀ (s : State) (a hi lo : Byte), s.registry.legal = true →
    exec (.decodeWindAngle [0x10, a, hi, lo]) s = .next { s with
      rx := .message (.windAngle (BitVec.ofNat 16 (hi.toNat * 256 + lo.toNat)) (BitVec.ofNat 4 (a.toNat / 16)))
        [0x10, a, hi, lo]
      tx := .none
      diag := 0 }

/-- DECODE.WIND_SPEED: the unit bit and the speed in tenths (43_codecs.md R168), for a tenths byte of at most 9; a frame
with a greater one is not taken as this kind, and the BYTE_IN that completes it reports RX_MALFORMED where no other
candidate matches (R167). The unit bit is delivered as it is; what it means rests on log 19 and is not stated here. -/
def Obligations.DecodeWindSpeedDelivers : Prop :=
  (∀ (s : State) (a n v : Byte), s.registry.legal = true → v.toNat ≤ 9 →
    exec (.decodeWindSpeed [0x11, a, n, v]) s = .next { s with
      rx := .message
        (.windSpeed (decide (128 ≤ n.toNat)) (BitVec.ofNat 11 (n.toNat % 128 * 10 + v.toNat))
          (BitVec.ofNat 4 (a.toNat / 16)))
        [0x11, a, n, v]
      tx := .none
      diag := 0 }) ∧
  ∀ a n v : Byte, 9 < v.toNat →
    matchWindSpeed [0x11, a, n, v] = false ∧
    ∀ s t : State, completes s t v [0x11, a, n, v] → noOtherMatches s.registry .windSpeed [0x11, a, n, v] →
      t.rx = .malformed [0x11, a, n, v] ∧ t.diag = 0

/-- DECODE.KEYSTROKE: the key code, the raw auxiliary nibble and middle bytes, and DIAG bit 0 for a key code outside
KNOWN_KEYCODES, whatever that set is (43_codecs.md R173, R176; log 16). -/
def Obligations.DecodeKeystrokeDelivers : Prop :=
  ∀ (s : State) (a key : Byte) (mid : List Byte), s.registry.legal = true →
    mid.length + 4 = s.registry.lenKeystroke →
    exec (.decodeKeystroke (s.registry.cmdKeystroke :: a :: (mid ++ [key, ~~~key]))) s = .next { s with
      rx := .message (.keystroke key (BitVec.ofNat 4 (a.toNat / 16)) mid)
        (s.registry.cmdKeystroke :: a :: (mid ++ [key, ~~~key]))
      tx := .none
      diag := if Config.knownKeycode key then 0 else 1 }

/-- DECODE.WAYPOINT_NAME: four 6-bit codes across three data bytes, each shown as a character from 0x30 (43_codecs.md
R179; the pair order and the bit order the spec takes from general knowledge, log 20). -/
def Obligations.DecodeWaypointNameDelivers : Prop :=
  ∀ (s : State) (a x y z : Byte), s.registry.legal = true →
    exec (.decodeWaypointName [s.registry.cmdWaypointName, a, x, ~~~x, y, ~~~y, z, ~~~z]) s = .next { s with
      rx := .message
        (.waypointName #v[BitVec.ofNat 8 (x.toNat % 64 + 0x30),
            BitVec.ofNat 8 (x.toNat / 64 + y.toNat % 16 * 4 + 0x30),
            BitVec.ofNat 8 (y.toNat / 16 + z.toNat % 4 * 16 + 0x30), BitVec.ofNat 8 (z.toNat / 4 + 0x30)]
          (BitVec.ofNat 4 (a.toNat / 16)))
        [s.registry.cmdWaypointName, a, x, ~~~x, y, ~~~y, z, ~~~z]
      tx := .none
      diag := 0 }

/-- DECODE.NAV_TO_WAYPOINT under the default NAV_LAYOUT: every field of the record, and DIAG with the flag bits that have
no meaning (43_codecs.md R183, R184); a frame whose final byte is not the complement of the flags byte does not match
(R181), and the BYTE_IN that completes it reports RX_MALFORMED where no other candidate matches (41_dispatcher.md R123).
Every position but the final byte's the spec takes from general knowledge (log 17). -/
def Obligations.DecodeNavToWaypointDelivers : Prop :=
  (∀ (s : State) (a b2 b3 b4 b5 fl b7 : Byte), s.registry.legal = true → s.registry.nav = defaultNavLayout →
    exec (.decodeNavToWaypoint [s.registry.cmdNavToWaypoint, a, b2, b3, b4, b5, fl, b7, ~~~fl]) s = .next { s with
      rx := .message
        (.navToWaypoint
          { xteHundredths := BitVec.ofNat 12 (b2.toNat * 16 + a.toNat / 16)
            bearingHalf := BitVec.ofNat 10 (b3.toNat % 4 * 180 + (b4.toNat % 16 * 16 + b3.toNat / 16))
            distRaw := BitVec.ofNat 12 (b5.toNat * 16 + b4.toNat / 16)
            distScale := fl.getLsbD 4
            steerRight := fl.getLsbD 6
            xtePresent := fl.getLsbD 0
            bearingPresent := fl.getLsbD 1
            distPresent := fl.getLsbD 2
            xteBig := fl.getLsbD 3
            flags := fl
            reserved3 := BitVec.ofNat 2 (b3.toNat / 4)
            reserved7 := b7 })
        [s.registry.cmdNavToWaypoint, a, b2, b3, b4, b5, fl, b7, ~~~fl]
      tx := .none
      diag := fl &&& 0xA0 }) ∧
  ∀ cmd a b2 b3 b4 b5 fl b7 last : Byte, last ≠ ~~~fl →
    matchNavToWaypoint defaultNavLayout [cmd, a, b2, b3, b4, b5, fl, b7, last] = false ∧
    ∀ s t : State, s.registry.nav = defaultNavLayout → cmd = s.registry.cmdNavToWaypoint →
      completes s t last [cmd, a, b2, b3, b4, b5, fl, b7, last] →
      noOtherMatches s.registry .navToWaypoint [cmd, a, b2, b3, b4, b5, fl, b7, last] →
      t.rx = .malformed [cmd, a, b2, b3, b4, b5, fl, b7, last] ∧ t.diag = 0

/-- The four kinds without a payload layout deliver the raw payload and the auxiliary nibble, where their parameter
predicate holds, and the default parameter of CALIBRATION, DEADBAND and AP_WIND_STATUS holds of every frame (43_codecs.md
R186, R188, R193, R197). CC_WARNINGS is stated for both values of its OPEN predicate (log 15), where no later kind is a
candidate; that its row, run on a frame the predicate refuses, reports RX_MALFORMED is the model's reading (log 6), since
R160 runs no decoder on such a frame. -/
def Obligations.RawPayloadKindsDeliver : Prop :=
  (defaultRegistry.matchCal = .always ∧ defaultRegistry.matchDeadband = .always ∧
    defaultRegistry.matchApws = .always) ∧
  (∀ (r : Registry) (f : Frame),
    (r.matchCal = .always → matchKind r .calibration f = true) ∧
    (r.matchDeadband = .always → matchKind r .deadband f = true) ∧
    (r.matchApws = .always → matchKind r .apWindStatus f = true)) ∧
  ∀ (s : State) (a : Byte) (payload : List Byte), s.registry.legal = true →
    (∀ f, f = s.registry.cmdCalibration :: a :: payload → f.length = s.registry.lenCalibration →
      matchKind s.registry .calibration f = true →
      exec (.decodeCalibration f) s = .next { s with
        rx := .message (.calibration (BitVec.ofNat 4 (a.toNat / 16)) payload) f, tx := .none, diag := 0 }) ∧
    (∀ f, f = s.registry.cmdDeadband :: a :: payload → f.length = s.registry.lenDeadband →
      matchKind s.registry .deadband f = true →
      exec (.decodeDeadband f) s = .next { s with
        rx := .message (.deadband (BitVec.ofNat 4 (a.toNat / 16)) payload) f, tx := .none, diag := 0 }) ∧
    (∀ f, f = s.registry.cmdCcWarnings :: a :: payload → f.length = s.registry.lenCcWarnings →
      s.registry.isCandidate f .apWindStatus = false →
      exec (.decodeCcWarnings f) s = .next { s with
        rx := if Config.matchCcw f then .message (.ccWarnings (BitVec.ofNat 4 (a.toNat / 16)) payload) f
          else .malformed f
        tx := .none
        diag := 0 }) ∧
    (∀ b, payload = [b] → matchKind s.registry .apWindStatus [0x11, a, b] = true →
      exec (.decodeApWindStatus [0x11, a, b]) s = .next { s with
        rx := .message (.apWindStatus (BitVec.ofNat 4 (a.toNat / 16)) [b]) [0x11, a, b], tx := .none, diag := 0 })

/-- DECODE.LAMP: the level bytes 0, 4, 8, 12 are the levels 0 to 3 (43_codecs.md R190, R191); run on a frame with any
other level byte, where no later candidate matches, it reports RX_MALFORMED. The second clause is the model's reading
(log 6): R160 never runs a decoder on a frame its predicate refuses, and the row falls through as CLASSIFY does. -/
def Obligations.DecodeLampDelivers : Prop :=
  (∀ (s : State) (a : Byte) (level : BitVec 2), s.registry.legal = true →
    exec (.decodeLamp [0x30, a, BitVec.ofNat 8 (level.toNat * 4)]) s = .next { s with
      rx := .message (.lamp level (BitVec.ofNat 4 (a.toNat / 16))) [0x30, a, BitVec.ofNat 8 (level.toNat * 4)]
      tx := .none
      diag := 0 }) ∧
  ∀ (s : State) (a v : Byte), s.registry.legal = true → v.toNat ∉ [0, 4, 8, 12] →
    (∀ j, 8 < j.id → s.registry.isCandidate [0x30, a, v] j = true → matchKind s.registry j [0x30, a, v] = false) →
    exec (.decodeLamp [0x30, a, v]) s = .next { s with rx := .malformed [0x30, a, v], tx := .none, diag := 0 }

/-- DECODE.STW: tenths of a knot, most significant byte first, delivered as computed; every frame of the kind matches
(43_codecs.md R195). -/
def Obligations.DecodeStwDelivers : Prop :=
  ∀ (s : State) (a hi lo : Byte), s.registry.legal = true →
    exec (.decodeStw [0x20, a, hi, lo]) s = .next { s with
      rx := .message (.stw (BitVec.ofNat 16 (hi.toNat * 256 + lo.toNat)) (BitVec.ofNat 4 (a.toNat / 16)))
        [0x20, a, hi, lo]
      tx := .none
      diag := 0 }

/-- The complement checks reject: in a frame that matches, replacing either trailing byte of a keystroke, or any one of
the six data bytes of a waypoint name, by another value breaks the match (43_codecs.md R175 and R180, which the spec marks
as derived). -/
def Obligations.ComplementChecksReject : Prop :=
  (∀ (front : List Byte) (key nkey other : Byte), matchKeystroke (front ++ [key, nkey]) = true →
    (other ≠ key → matchKeystroke (front ++ [other, nkey]) = false) ∧
    (other ≠ nkey → matchKeystroke (front ++ [key, other]) = false)) ∧
  ∀ (f : Frame) (i : Nat) (other : Byte), f.length = 8 → matchWaypointName f = true → 2 ≤ i → i < 8 →
    other ≠ byteAt f i → matchWaypointName (f.set i other) = false

/-! ### Encoders -/

/-- ENC.HEADING_COURSE: the canonical frame for a heading to 359 and a course to 719, else TX_OUT_OF_RANGE; RX_NONE, DIAG
0, nothing else changes (43_codecs.md R163, 42_bit_helpers.md R150; that the course byte is f[3] the spec takes from
general knowledge, log 18; where the tail bytes stand on the port is the model's, log 7). -/
def Obligations.EncHeadingCourseAnswers : Prop :=
  ∀ s : State, s.registry.legal = true →
    (359 < s.opnd.heading.toNat ∨ 719 < s.opnd.courseHalf.toNat →
      exec .encHeadingCourse s = .next { s with rx := .none, tx := .outOfRange, diag := 0 }) ∧
    (s.opnd.heading.toNat ≤ 359 → s.opnd.courseHalf.toNat ≤ 719 →
      exec .encHeadingCourse s = .next { s with
        rx := .none
        tx := .frame ([s.registry.cmdHeadingCourse,
          BitVec.ofNat 8 ((s.opnd.heading.toNat % 90 % 2 * 4 + s.opnd.heading.toNat / 90) * 16
            + (s.registry.lenHeadingCourse - 3)),
          BitVec.ofNat 8 (s.opnd.courseHalf.toNat / 180 * 64 + s.opnd.heading.toNat % 90 / 2),
          BitVec.ofNat 8 (s.opnd.courseHalf.toNat % 180)]
          ++ s.opnd.tail.toList.take (s.registry.lenHeadingCourse - 4))
        diag := 0 })

/-- ENC.WIND_ANGLE: the frame for an angle to 719 half-degrees, else TX_OUT_OF_RANGE (43_codecs.md R166). -/
def Obligations.EncWindAngleAnswers : Prop :=
  ∀ s : State,
    (719 < s.opnd.angleHalf.toNat →
      exec .encWindAngle s = .next { s with rx := .none, tx := .outOfRange, diag := 0 }) ∧
    (s.opnd.angleHalf.toNat ≤ 719 →
      exec .encWindAngle s = .next { s with
        rx := .none
        tx := .frame [0x10, 0x01, BitVec.ofNat 8 (s.opnd.angleHalf.toNat / 256),
          BitVec.ofNat 8 (s.opnd.angleHalf.toNat % 256)]
        diag := 0 })

/-- ENC.WIND_SPEED: knots and tenths with the unit bit 0, for a speed to 1279 tenths, else TX_OUT_OF_RANGE (43_codecs.md
R170). -/
def Obligations.EncWindSpeedAnswers : Prop :=
  ∀ s : State,
    (1279 < s.opnd.windTenths.toNat →
      exec .encWindSpeed s = .next { s with rx := .none, tx := .outOfRange, diag := 0 }) ∧
    (s.opnd.windTenths.toNat ≤ 1279 →
      ∃ n : Byte, n.toNat = s.opnd.windTenths.toNat / 10 ∧ n.getLsbD 7 = false ∧
        exec .encWindSpeed s = .next { s with
          rx := .none
          tx := .frame [0x11, 0x01, n, BitVec.ofNat 8 (s.opnd.windTenths.toNat % 10)]
          diag := 0 })

/-- ENC.KEYSTROKE: every key byte, auxiliary nibble and middle bytes are accepted, and the complement ends the frame
(43_codecs.md R174; where the mid bytes stand on the port is the model's, log 7). -/
def Obligations.EncKeystrokeAnswers : Prop :=
  ∀ s : State, s.registry.legal = true →
    exec .encKeystroke s = .next { s with
      rx := .none
      tx := .frame ([s.registry.cmdKeystroke, BitVec.ofNat 8 (s.opnd.aux.toNat * 16 + (s.registry.lenKeystroke - 3))]
        ++ s.opnd.mid.toList.take (s.registry.lenKeystroke - 4) ++ [s.opnd.key, ~~~s.opnd.key])
      diag := 0 }

/-- ENC.WAYPOINT_NAME: the codes of the characters, '0' in the slots from n on, packed into three bytes each followed by
its complement; more than four characters give TX_OUT_OF_RANGE (43_codecs.md R178; the bit order the spec takes from
general knowledge, log 20). -/
def Obligations.EncWaypointNameAnswers : Prop :=
  ∀ s : State,
    (4 < s.opnd.nameLength.toNat →
      exec .encWaypointName s = .next { s with rx := .none, tx := .outOfRange, diag := 0 }) ∧
    (s.opnd.nameLength.toNat ≤ 4 →
      ∃ (c : Fin 4 → Nat) (x y z : Byte),
        (∀ i : Fin 4, c i = if i.val < s.opnd.nameLength.toNat then (char6 s.opnd.chars[i]).toNat else 0) ∧
        x.toNat + y.toNat * 2 ^ 8 + z.toNat * 2 ^ 16 = c 0 + c 1 * 2 ^ 6 + c 2 * 2 ^ 12 + c 3 * 2 ^ 18 ∧
        exec .encWaypointName s = .next { s with
          rx := .none
          tx := .frame [s.registry.cmdWaypointName, 0x05, x, ~~~x, y, ~~~y, z, ~~~z]
          diag := 0 })

/-- ENC.LAMP: the levels 0 to 3, else TX_OUT_OF_RANGE (43_codecs.md R192). -/
def Obligations.EncLampAnswers : Prop :=
  ∀ s : State,
    (3 < s.opnd.level.toNat → exec .encLamp s = .next { s with rx := .none, tx := .outOfRange, diag := 0 }) ∧
    (s.opnd.level.toNat ≤ 3 →
      exec .encLamp s = .next { s with
        rx := .none, tx := .frame [0x30, 0x00, BitVec.ofNat 8 (s.opnd.level.toNat * 4)], diag := 0 })

/-- ENC.STW: every value is legal (43_codecs.md R196). -/
def Obligations.EncStwAnswers : Prop :=
  ∀ s : State,
    exec .encStw s = .next { s with
      rx := .none
      tx := .frame [0x20, 0x01, BitVec.ofNat 8 (s.opnd.stwTenths.toNat / 256),
        BitVec.ofNat 8 (s.opnd.stwTenths.toNat % 256)]
      diag := 0 }

/-- The kinds without a transmit path answer TX_UNSUPPORTED and no frame, whatever `opnd` shows (43_codecs.md R185, R187,
R189, R194, R198; 60_exceptions.md R307). -/
def Obligations.UnsupportedEncodersSaySo : Prop :=
  ∀ (s : State) (o : Opnd),
    ∀ i ∈ [Instr.encNavToWaypoint, .encCalibration, .encDeadband, .encCcWarnings, .encApWindStatus],
      exec i { s with opnd := o } = .next { s with opnd := o, rx := .none, tx := .unsupported, diag := 0 }

/-- ENCODE: the word of each kind decodes to the row that refines it, ENCODE with that KIND runs the same encoder, the
kinds 5, 6, 7, 10 and 11 are the unsupported ones, and RX_NONE and DIAG 0 are all that is written besides TX
(43_codecs.md R200). R200 gives the word to the ENCODE event: that it decodes to the ENC row, and that the two rows run
alike, is the model's choice (log 5). -/
def Obligations.EncodeRunsItsKind : Prop :=
  ∀ (s : State) (k : Kind),
    decodeEvent (BitVec.ofNat 16 (k.id * 16 + 4)) = .ok (encRow k) ∧
    exec (.encode (BitVec.ofNat 4 k.id)) s = exec (encRow k) s ∧
    exec (encRow k) s = .next { s with rx := .none, tx := encodeKind s.registry k s.opnd, diag := 0 } ∧
    (encodeKind s.registry k s.opnd = .unsupported ↔ k.id ∈ [5, 6, 7, 10, 11])

/-- The reserved OP codes, and ENCODE with a KIND of 12 to 15, complete by raising the fault (60_exceptions.md R305's
pseudocode, 30_encoding.md R74). -/
def Obligations.ReservedRowsRaiseTheFault : Prop :=
  (∀ (s : State) (i : Instr), reserved i → exec i s = .next (afterIllegalEvent s)) ∧
  ∀ (s : State) (kind : Nibble), 12 ≤ kind.toNat → exec (.encode kind) s = .next (afterIllegalEvent s)

/-- Every encoded frame has LEN_k bytes, announces that length itself, and is a candidate of its kind (43_codecs.md R201,
which the spec marks as derived). -/
def Obligations.EncodedFramesAreWhole : Prop :=
  ∀ (r : Registry) (k : Kind) (o : Opnd) (f : Frame), r.legal = true → encodeKind r k o = .frame f →
    f.length = r.len k ∧ wholeFrame f = true ∧ r.isCandidate f k = true

/-- The round-trip law on the machine (43_codecs.md R199, which the spec marks as derived): a frame a kind's encoder
gives, fed back byte by byte from a frame boundary, is received as a message of that kind with the operand's values,
unless an earlier candidate matches it. -/
def Obligations.EncodedFrameRoundTrips : Prop :=
  ∀ (s : State) (k : Kind) (o : Opnd) (f : Frame) (ps rest : List Presentation),
    s.Inv → s.faState = .sCmd → encodeKind s.registry k o = .frame f →
    (∀ j, j.id < k.id → s.registry.isCandidate f j = true → matchKind s.registry j f = false) →
    deliver f ps → s.input = ps ++ rest →
    ∃ t fields, core.run f.length s = .next t ∧ t.rx = .message fields f ∧ fields.kind = k ∧
      roundTrips s.registry o fields

/-! ### Whole-machine rules -/

/-- The invariant of Safety.lean is kept by every step (10_state.md R22, R23, R25, R26, R28, R39; 20_memory.md R42). -/
def Obligations.StepKeepsInvariant : Prop := ∀ s t : State, s.Inv → step s = .next t → t.Inv

/-- The invariant holds at reset (10_state.md R32), under the default registry (log 13). -/
def Obligations.ResetMeetsInvariant : Prop := State.reset.Inv

/-- From a state that meets the invariant every step answers a next state: no presentation stops the machine
(60_exceptions.md R300, R313, 43_codecs.md R160). -/
def Obligations.NoPresentationStopsTheMachine : Prop := ∀ s : State, s.Inv → ∃ t, step s = .next t

/-- No event, and no reset, writes the registry (20_memory.md R52). -/
def Obligations.RegistryIsNeverWritten : Prop := ∀ s t : State, step s = .next t → t.registry = s.registry

/-- FAULT is sticky and keeps its first code; only reset clears it, and its codes are 0, 1 and 2 (10_state.md R28). -/
def Obligations.FaultIsSticky : Prop :=
  (∀ (s t : State) (p : Presentation) (rest : List Presentation), s.input = p :: rest → step s = .next t →
    (p.rst = false → s.fault.flag = true → t.fault = s.fault) ∧
    (p.rst = true → t.fault.flag = false ∧ t.fault.code = .none)) ∧
  State.reset.fault = ⟨false, .none⟩ ∧
  FaultCode.code .none = 0 ∧ FaultCode.code .illegalEvent = 1 ∧ FaultCode.code .helperDomain = 2

/-- Every event writes RX, TX and DIAG, so that nothing of the last step's results is left: the outcome does not depend
on them. RX_NONE after NOP and ENCODE, TX_NONE after NOP, BYTE_IN, SOURCE_CLOSED and CANCEL (10_state.md R29). -/
def Obligations.ResultsLastOneStep : Prop :=
  (∀ (i : Instr) (s : State) (rx : Rx) (tx : Tx) (diag : Byte),
    exec i { s with rx := rx, tx := tx, diag := diag } = exec i s) ∧
  ∀ (i : Instr) (s t : State), exec i s = .next t →
    (i = .nop ∨ encodes i → t.rx = .none) ∧ (i = .nop ∨ receives i = true → t.tx = .none)

/-- DIAG after every step that takes a presentation: bit 0 for a keystroke outside KNOWN_KEYCODES, the flag bits without a
meaning for a navigation message (0xA0 in the default layout), 0 otherwise; it is nonzero only beside a message that is
delivered, and 0 at reset (10_state.md R27). It is stated of every registry whose mask is 0xA0, the default layout's; the
mask of another layout is the model's choice (log 25). -/
def Obligations.DiagFollowsTheMessage : Prop :=
  State.reset.diag = 0 ∧
  ∀ (s t : State) (p : Presentation) (rest : List Presentation),
    s.registry.nav.unrecognised = 0xA0 → s.input = p :: rest → step s = .next t →
    (t.diag = match t.rx with
      | .message (.keystroke key _ _) _ => if Config.knownKeycode key then 0 else 1
      | .message (.navToWaypoint record) _ => record.flags &&& 0xA0
      | _ => 0) ∧
    (t.diag ≠ 0 → t.rx.code = 2)

/-- The operand record is read only by ENCODE: any other instruction does the same with another one on the port, and leaves
it as it is (30_encoding.md R71's `opnd` port, 10_state.md R30). -/
def Obligations.OnlyEncodeReadsOpnd : Prop :=
  ∀ (i : Instr) (s t : State) (o : Opnd), ¬ encodes i → exec i s = .next t →
    t.opnd = s.opnd ∧ exec i { s with opnd := o } = .next { t with opnd := o }

/-- The frame of every instruction but BYTE_IN, SOURCE_CLOSED and CANCEL (NOP, ENCODE and the ENC rows, the DECODE rows,
the reserved rows): the Frame Assembler, every byte of BUF, the registry and the ports are unchanged; FAULT is unchanged
too, except by the reserved rows and ENCODE with KIND 12 to 15, whose effect is to write it (10_state.md R30, 20_memory.md
R54). -/
def Obligations.NonReceivingInstructionsKeepTheAssembler : Prop :=
  ∀ (i : Instr) (s t : State), receives i = false → exec i s = .next t →
    t.faState = s.faState ∧ t.faCount = s.faCount ∧ t.faLen = s.faLen ∧ (∀ a, t.bufRead a = s.bufRead a) ∧
      t.buf = s.buf ∧ t.registry = s.registry ∧ t.opnd = s.opnd ∧ t.input = s.input ∧
      (¬ reserved i → (∀ kind, i = .encode kind → kind.toNat < 12) → t.fault = s.fault)

/-- The frame of BYTE_IN on BUF: where it leaves a partial frame held, it has stored at FA_COUNT (0 in S_CMD, 1 in
S_ATTR), and every other address reads as before (20_memory.md R42, R43, which the spec marks as derived). Where it
completes a frame, BUF lists nothing after it: the spec leaves BUF unspecified there, and this is the model's choice
(log 11). -/
def Obligations.ByteInStoresAtFaCount : Prop :=
  ∀ (s t : State) (b : Byte), exec (.byteIn b) s = .next t →
    (t.faState = .sCmd → t.buf = []) ∧
    (t.faState ≠ .sCmd → ∀ a,
      a = (match s.faState with | .sCmd => 0 | .sAttr => 1 | .sPayload => s.faCount.toNat) →
      Memory.read t.buf a = some b ∧ ∀ c, c ≠ a → Memory.read t.buf c = Memory.read s.buf c)

/-- Every instruction keeps BUF's canonical form (20_memory.md R42). -/
def Obligations.BufStaysCanonical : Prop :=
  ∀ (i : Instr) (s t : State), Memory.wf s.buf → exec i s = .next t → Memory.wf t.buf

/-- A read of BUF at FA_COUNT or beyond has no value, a write beyond index 17 does not exist, and a write at FA_COUNT
reads back once FA_COUNT has moved past it (20_memory.md R43, which the spec marks as derived). -/
def Obligations.BufAccessesStayInside : Prop :=
  ∀ (s : State) (i : Nat) (b : Byte),
    (s.faCount.toNat ≤ i → s.bufRead i = .error .bufNoValue) ∧
    (18 ≤ i → s.bufWrite i b = .error .bufAddress) ∧
    (i < 18 → ∃ t, s.bufWrite i b = .ok t ∧ ∀ n : BitVec 5, i < n.toNat → { t with faCount := n }.bufRead i = .ok b)

/-! ### Results and helpers -/

/-- RX's codes, and that each field is read under the codes that make it valid and is a fault under every other
(10_state.md R25). -/
def Obligations.RxFieldsValidUnderTheirCodes : Prop :=
  (Rx.code .none = 0 ∧ Rx.code .needMore = 1 ∧ (∀ fields f, Rx.code (.message fields f) = 2) ∧
    (∀ f, Rx.code (.unknown f) = 3) ∧ (∀ f, Rx.code (.malformed f) = 4) ∧ (∀ n, Rx.code (.framingError n) = 5) ∧
    ∀ n, Rx.code (.cancelled n) = 6) ∧
  State.reset.rx = .none ∧
  ∀ s : State,
    ((∃ k, s.readRxKind = .ok k) ↔ s.rx.code = 2) ∧ ((∃ fields, s.readRxFields = .ok fields) ↔ s.rx.code = 2) ∧
    ((∃ f, s.readRxFrame = .ok f) ↔ s.rx.code = 2 ∨ s.rx.code = 3 ∨ s.rx.code = 4) ∧
    ((∃ n, s.readRxLen = .ok n) ↔ s.rx.code = 2 ∨ s.rx.code = 3 ∨ s.rx.code = 4) ∧
    ((∃ n, s.readRxDiscarded = .ok n) ↔ s.rx.code = 5 ∨ s.rx.code = 6) ∧
    (∀ fields, s.readRxFields = .ok fields → s.readRxKind = .ok (BitVec.ofNat 4 fields.kind.id)) ∧
    (∀ f, s.readRxFrame = .ok f → s.readRxLen = .ok (BitVec.ofNat 5 f.length) ∧ (s.Inv → f.length ≤ 18))

/-- TX's codes, and that the frame and its length are read under TX_FRAME and are a fault under every other code
(10_state.md R26). -/
def Obligations.TxFrameValidUnderItsCode : Prop :=
  (Tx.code .none = 0 ∧ (∀ f, Tx.code (.frame f) = 1) ∧ Tx.code .unsupported = 2 ∧ Tx.code .outOfRange = 3) ∧
  State.reset.tx = .none ∧
  ∀ s : State,
    ((∃ f, s.readTxFrame = .ok f) ↔ s.tx.code = 1) ∧
    (∀ f, s.readTxFrame = .ok f → s.readTxLen = .ok (BitVec.ofNat 5 f.length)) ∧
    (s.tx.code ≠ 1 → s.readTxFrame = .error .resultNoValue ∧ s.readTxLen = .error .resultNoValue)

/-- BITCOUNT2 on its domain and outside it, and that no step of any state reaches the helper-domain fault
(42_bit_helpers.md R140, 60_exceptions.md R306; 41_dispatcher.md R125, which the spec marks as derived). -/
def Obligations.HelperDomainFaultIsUnreachable : Prop :=
  (bitcount2 0x0 = some 0 ∧ bitcount2 0x4 = some 1 ∧ bitcount2 0x8 = some 1 ∧ bitcount2 0xC = some 2 ∧
    ∀ x : Nibble, x ≠ 0x0 → x ≠ 0x4 → x ≠ 0x8 → x ≠ 0xC → bitcount2 x = none) ∧
  ∀ s t : State, step s = .next t → s.fault.code ≠ .helperDomain → t.fault.code ≠ .helperDomain

/-- PACK6x4 and UNPACK6x4 are inverse to each other, both ways (42_bit_helpers.md R147; the law does not rest on the bit
order of log 20). -/
def Obligations.PackUnpackInverse : Prop :=
  (∀ c0 c1 c2 c3 : BitVec 6,
    unpack6x4 (pack6x4 c0 c1 c2 c3).1 (pack6x4 c0 c1 c2 c3).2.1 (pack6x4 c0 c1 c2 c3).2.2 = (c0, c1, c2, c3)) ∧
  ∀ x y z : Byte,
    pack6x4 (unpack6x4 x y z).1 (unpack6x4 x y z).2.1 (unpack6x4 x y z).2.2.1 (unpack6x4 x y z).2.2.2 = (x, y, z)

/-- NOP and ENCODE with a kind may stand anywhere: every instruction does after them what it would have done before, and
repeating them changes nothing more (20_memory.md R48, and R54, which the spec marks as derived; 40_frame_assembler.md
R106). -/
def Obligations.NopAndEncodeDisturbNothing : Prop :=
  ∀ (i j : Instr) (s t : State), (i = .nop ∨ ∃ k, i = encRow k) → exec i s = .next t →
    exec j t = exec j s ∧ exec i t = .next t
end

