-- ==== Sys2Proof/Laws/State.lean ====
section
/-! SUPPORT. One lemma per field of State and per update of Ops.lean, so that no later proof unfolds a record update; and what each update is as a whole. -/

namespace Sys2Proof.Machine

@[simp] theorem State.presentRx_faState (s : State) (rx : Rx) (diag : Byte) : (s.presentRx rx diag).faState = s.faState := rfl
@[simp] theorem State.presentRx_faCount (s : State) (rx : Rx) (diag : Byte) : (s.presentRx rx diag).faCount = s.faCount := rfl
@[simp] theorem State.presentRx_faLen (s : State) (rx : Rx) (diag : Byte) : (s.presentRx rx diag).faLen = s.faLen := rfl
@[simp] theorem State.presentRx_buf (s : State) (rx : Rx) (diag : Byte) : (s.presentRx rx diag).buf = s.buf := rfl
@[simp] theorem State.presentRx_registry (s : State) (rx : Rx) (diag : Byte) : (s.presentRx rx diag).registry = s.registry := rfl
@[simp] theorem State.presentRx_rx (s : State) (rx : Rx) (diag : Byte) : (s.presentRx rx diag).rx = rx := rfl
@[simp] theorem State.presentRx_tx (s : State) (rx : Rx) (diag : Byte) : (s.presentRx rx diag).tx = .none := rfl
@[simp] theorem State.presentRx_diag (s : State) (rx : Rx) (diag : Byte) : (s.presentRx rx diag).diag = diag := rfl
@[simp] theorem State.presentRx_fault (s : State) (rx : Rx) (diag : Byte) : (s.presentRx rx diag).fault = s.fault := rfl
@[simp] theorem State.presentRx_opnd (s : State) (rx : Rx) (diag : Byte) : (s.presentRx rx diag).opnd = s.opnd := rfl
@[simp] theorem State.presentRx_input (s : State) (rx : Rx) (diag : Byte) : (s.presentRx rx diag).input = s.input := rfl

@[simp] theorem State.presentTx_faState (s : State) (tx : Tx) : (s.presentTx tx).faState = s.faState := rfl
@[simp] theorem State.presentTx_faCount (s : State) (tx : Tx) : (s.presentTx tx).faCount = s.faCount := rfl
@[simp] theorem State.presentTx_faLen (s : State) (tx : Tx) : (s.presentTx tx).faLen = s.faLen := rfl
@[simp] theorem State.presentTx_buf (s : State) (tx : Tx) : (s.presentTx tx).buf = s.buf := rfl
@[simp] theorem State.presentTx_registry (s : State) (tx : Tx) : (s.presentTx tx).registry = s.registry := rfl
@[simp] theorem State.presentTx_rx (s : State) (tx : Tx) : (s.presentTx tx).rx = .none := rfl
@[simp] theorem State.presentTx_tx (s : State) (tx : Tx) : (s.presentTx tx).tx = tx := rfl
@[simp] theorem State.presentTx_diag (s : State) (tx : Tx) : (s.presentTx tx).diag = 0 := rfl
@[simp] theorem State.presentTx_fault (s : State) (tx : Tx) : (s.presentTx tx).fault = s.fault := rfl
@[simp] theorem State.presentTx_opnd (s : State) (tx : Tx) : (s.presentTx tx).opnd = s.opnd := rfl
@[simp] theorem State.presentTx_input (s : State) (tx : Tx) : (s.presentTx tx).input = s.input := rfl

@[simp] theorem State.dropFrame_faState (s : State) : (s.dropFrame).faState = .sCmd := rfl
@[simp] theorem State.dropFrame_faCount (s : State) : (s.dropFrame).faCount = 0 := rfl
@[simp] theorem State.dropFrame_faLen (s : State) : (s.dropFrame).faLen = s.faLen := rfl
@[simp] theorem State.dropFrame_buf (s : State) : (s.dropFrame).buf = [] := rfl
@[simp] theorem State.dropFrame_registry (s : State) : (s.dropFrame).registry = s.registry := rfl
@[simp] theorem State.dropFrame_rx (s : State) : (s.dropFrame).rx = s.rx := rfl
@[simp] theorem State.dropFrame_tx (s : State) : (s.dropFrame).tx = s.tx := rfl
@[simp] theorem State.dropFrame_diag (s : State) : (s.dropFrame).diag = s.diag := rfl
@[simp] theorem State.dropFrame_fault (s : State) : (s.dropFrame).fault = s.fault := rfl
@[simp] theorem State.dropFrame_opnd (s : State) : (s.dropFrame).opnd = s.opnd := rfl
@[simp] theorem State.dropFrame_input (s : State) : (s.dropFrame).input = s.input := rfl

@[simp] theorem State.raiseFault_faState (s : State) (code : FaultCode) : (s.raiseFault code).faState = s.faState := rfl
@[simp] theorem State.raiseFault_faCount (s : State) (code : FaultCode) : (s.raiseFault code).faCount = s.faCount := rfl
@[simp] theorem State.raiseFault_faLen (s : State) (code : FaultCode) : (s.raiseFault code).faLen = s.faLen := rfl
@[simp] theorem State.raiseFault_buf (s : State) (code : FaultCode) : (s.raiseFault code).buf = s.buf := rfl
@[simp] theorem State.raiseFault_registry (s : State) (code : FaultCode) : (s.raiseFault code).registry = s.registry := rfl
@[simp] theorem State.raiseFault_rx (s : State) (code : FaultCode) : (s.raiseFault code).rx = s.rx := rfl
@[simp] theorem State.raiseFault_tx (s : State) (code : FaultCode) : (s.raiseFault code).tx = s.tx := rfl
@[simp] theorem State.raiseFault_diag (s : State) (code : FaultCode) : (s.raiseFault code).diag = s.diag := rfl
@[simp] theorem State.raiseFault_fault (s : State) (code : FaultCode) : (s.raiseFault code).fault = s.fault.raise code := rfl
@[simp] theorem State.raiseFault_opnd (s : State) (code : FaultCode) : (s.raiseFault code).opnd = s.opnd := rfl
@[simp] theorem State.raiseFault_input (s : State) (code : FaultCode) : (s.raiseFault code).input = s.input := rfl

@[simp] theorem State.illegalEvent_faState (s : State) : (s.illegalEvent).faState = s.faState := rfl
@[simp] theorem State.illegalEvent_faCount (s : State) : (s.illegalEvent).faCount = s.faCount := rfl
@[simp] theorem State.illegalEvent_faLen (s : State) : (s.illegalEvent).faLen = s.faLen := rfl
@[simp] theorem State.illegalEvent_buf (s : State) : (s.illegalEvent).buf = s.buf := rfl
@[simp] theorem State.illegalEvent_registry (s : State) : (s.illegalEvent).registry = s.registry := rfl
@[simp] theorem State.illegalEvent_rx (s : State) : (s.illegalEvent).rx = .none := rfl
@[simp] theorem State.illegalEvent_tx (s : State) : (s.illegalEvent).tx = .none := rfl
@[simp] theorem State.illegalEvent_diag (s : State) : (s.illegalEvent).diag = 0 := rfl
@[simp] theorem State.illegalEvent_fault (s : State) : (s.illegalEvent).fault = s.fault.raise .illegalEvent := rfl
@[simp] theorem State.illegalEvent_opnd (s : State) : (s.illegalEvent).opnd = s.opnd := rfl
@[simp] theorem State.illegalEvent_input (s : State) : (s.illegalEvent).input = s.input := rfl

@[simp] theorem State.applyReset_faState (s : State) : (s.applyReset).faState = .sCmd := rfl
@[simp] theorem State.applyReset_faCount (s : State) : (s.applyReset).faCount = 0 := rfl
@[simp] theorem State.applyReset_faLen (s : State) : (s.applyReset).faLen = s.faLen := rfl
@[simp] theorem State.applyReset_buf (s : State) : (s.applyReset).buf = [] := rfl
@[simp] theorem State.applyReset_registry (s : State) : (s.applyReset).registry = s.registry := rfl
@[simp] theorem State.applyReset_rx (s : State) : (s.applyReset).rx = .none := rfl
@[simp] theorem State.applyReset_tx (s : State) : (s.applyReset).tx = .none := rfl
@[simp] theorem State.applyReset_diag (s : State) : (s.applyReset).diag = 0 := rfl
@[simp] theorem State.applyReset_fault (s : State) : (s.applyReset).fault = ⟨false, .none⟩ := rfl
@[simp] theorem State.applyReset_opnd (s : State) : (s.applyReset).opnd = s.opnd := rfl
@[simp] theorem State.applyReset_input (s : State) : (s.applyReset).input = s.input := rfl

@[simp] theorem State.presenting_faState (s : State) (e : EventWord) : (s.presenting e).faState = s.faState := rfl
@[simp] theorem State.presenting_faCount (s : State) (e : EventWord) : (s.presenting e).faCount = s.faCount := rfl
@[simp] theorem State.presenting_faLen (s : State) (e : EventWord) : (s.presenting e).faLen = s.faLen := rfl
@[simp] theorem State.presenting_buf (s : State) (e : EventWord) : (s.presenting e).buf = s.buf := rfl
@[simp] theorem State.presenting_registry (s : State) (e : EventWord) : (s.presenting e).registry = s.registry := rfl
@[simp] theorem State.presenting_rx (s : State) (e : EventWord) : (s.presenting e).rx = s.rx := rfl
@[simp] theorem State.presenting_tx (s : State) (e : EventWord) : (s.presenting e).tx = s.tx := rfl
@[simp] theorem State.presenting_diag (s : State) (e : EventWord) : (s.presenting e).diag = s.diag := rfl
@[simp] theorem State.presenting_fault (s : State) (e : EventWord) : (s.presenting e).fault = s.fault := rfl
@[simp] theorem State.presenting_opnd (s : State) (e : EventWord) : (s.presenting e).opnd = s.opnd := rfl
@[simp] theorem State.presenting_input (s : State) (e : EventWord) : (s.presenting e).input = ⟨false, e, s.opnd⟩ :: s.input := rfl

/-- Whether a raised fault register shows the flag: always. -/
@[simp] theorem FaultReg.raise_flag (f : FaultReg) (c : FaultCode) : (f.raise c).flag = true := by
  unfold FaultReg.raise
  split <;> simp_all

/-- A fault register that shows the flag keeps its code (10_state.md R28). -/
theorem FaultReg.raise_of_flag {f : FaultReg} (h : f.flag = true) (c : FaultCode) : f.raise c = f := by
  simp [FaultReg.raise, h]

/-- The first fault's code is kept (10_state.md R28). -/
theorem FaultReg.raise_of_clear {f : FaultReg} (h : f.flag = false) (c : FaultCode) : f.raise c = ⟨true, c⟩ := by
  simp [FaultReg.raise, h]

end Sys2Proof.Machine
end

