-- ==== Sys2Proof/Laws/Memory.lean ====
section
/-! SUPPORT. The laws of BUF: a read after a write, the canonical form, and what the reads of the Frame Assembler answer in a state whose BUF holds the partial frame. -/

namespace Sys2Proof.Machine

theorem Memory.read_write_same (m : Memory) (a : Nat) (v : Byte) : Memory.read (Memory.write m a v) a = some v := by
  induction m with
  | nil => simp [Memory.write, Memory.read]
  | cons c rest ih =>
    unfold Memory.write
    split
    · simp [Memory.read]
    · split
      · simp [Memory.read]
      · simp [Memory.read, *]

theorem Memory.read_write_other (m : Memory) {a b : Nat} (v : Byte) (h : b ≠ a) :
    Memory.read (Memory.write m a v) b = Memory.read m b := by
  induction m with
  | nil => simp [Memory.write, Memory.read, Ne.symm h]
  | cons c rest ih =>
    unfold Memory.write
    split
    · simp [Memory.read, Ne.symm h]
    · split
      · next _ e => simp [Memory.read, Ne.symm h, e]
      · by_cases e : c.1 = b <;> simp [Memory.read, e, ih]

/-- The addresses a write lists: those listed before, and its own. -/
theorem Memory.mem_write {m : Memory} {a : Nat} {v : Byte} {c : Host.Cell} (h : c ∈ Memory.write m a v) :
    c = (a, v) ∨ c ∈ m := by
  induction m with
  | nil => simpa [Memory.write] using h
  | cons d rest ih =>
    unfold Memory.write at h
    split at h
    · simpa using h
    · split at h
      · rcases List.mem_cons.1 h with h | h
        · exact .inl h
        · exact .inr (List.mem_cons_of_mem _ h)
      · rcases List.mem_cons.1 h with h | h
        · exact .inr (h ▸ List.mem_cons_self)
        · exact (ih h).imp id (List.mem_cons_of_mem _)

/-- A write inside 0..17 keeps the canonical form. -/
theorem Memory.write_wf {m : Memory} (h : Memory.wf m) {a : Nat} (ha : a < 18) (v : Byte) :
    Memory.wf (Memory.write m a v) := by
  obtain ⟨hs, hb⟩ := h
  refine ⟨?_, fun c hc => ?_⟩
  · induction m with
    | nil => simp [Memory.write]
    | cons c rest ih =>
      have hs' := List.pairwise_cons.1 hs
      unfold Memory.write
      split
      · next lt =>
        refine List.pairwise_cons.2 ⟨fun d hd => ?_, hs⟩
        rcases List.mem_cons.1 hd with rfl | hd
        · exact lt
        · exact lt.trans (hs'.1 d hd)
      · next ge =>
        split
        · next e => exact List.pairwise_cons.2 ⟨fun d hd => e ▸ hs'.1 d hd, hs'.2⟩
        · next ne =>
          refine List.pairwise_cons.2 ⟨fun d hd => ?_, ih hs'.2 fun d hd => hb d (List.mem_cons_of_mem _ hd)⟩
          rcases Memory.mem_write hd with rfl | hd
          · show c.1 < a
            omega
          · exact hs'.1 d hd
  · rcases Memory.mem_write hc with rfl | hc
    · exact ha
    · exact hb c hc

/-- The memory of State.reset has the canonical form. -/
theorem Memory.reset_wf : Memory.wf State.reset.buf := by decide

/-- The dropped frame has the canonical form. -/
theorem Memory.dropFrame_wf (s : State) : Memory.wf s.dropFrame.buf := by simp [Memory.wf]

/-- A successful write of BUF keeps the canonical form. -/
theorem State.bufWrite_wf {s t : State} {i : Nat} {b : Byte} (h : s.bufWrite i b = .ok t) (hs : s.buf.wf) :
    t.buf.wf := by
  unfold State.bufWrite at h
  split at h
  · next hi =>
    cases h
    exact Memory.write_wf hs hi b
  · cases h

/-- What a write of BUF does: an address inside 0..17 is written, and nothing else changes. -/
theorem State.bufWrite_eq_ok {s t : State} {i : Nat} {b : Byte} :
    s.bufWrite i b = .ok t ↔ i < 18 ∧ t = { s with buf := Memory.write s.buf i b } := by
  unfold State.bufWrite
  split
  · constructor
    · intro h
      cases h
      exact ⟨‹_›, rfl⟩
    · rintro ⟨-, rfl⟩
      rfl
  · constructor
    · intro h
      cases h
    · rintro ⟨h, -⟩
      exact absurd h ‹_›

/-- Writing one past a memory that lists 0 to n − 1 appends. -/
theorem Memory.write_append {m : Memory} {n : Nat} (h : m.map Prod.fst = List.range n) (v : Byte) :
    Memory.write m n v = m ++ [(n, v)] := by
  have hlt : ∀ c ∈ m, c.1 < n := fun c hc => by
    have : c.1 ∈ m.map Prod.fst := List.mem_map.2 ⟨c, hc, rfl⟩
    simpa [h] using this
  clear h
  induction m with
  | nil => rfl
  | cons c rest ih =>
    have hc := hlt c List.mem_cons_self
    unfold Memory.write
    rw [if_neg (by omega), if_neg (by omega), ih fun d hd => hlt d (List.mem_cons_of_mem _ hd), List.cons_append]

/-- A write one past a memory that lists 0 to n − 1 lists 0 to n. -/
theorem Memory.write_range {m : Memory} {n : Nat} (h : m.map Prod.fst = List.range n) (v : Byte) :
    (Memory.write m n v).map Prod.fst = List.range (n + 1) := by
  rw [Memory.write_append h, List.map_append, h, List.range_succ]
  rfl

/-- A listed address reads as a value. -/
theorem Memory.read_isSome {m : Memory} {a : Nat} (h : a ∈ m.map Prod.fst) : ∃ b, Memory.read m a = some b := by
  induction m with
  | nil => simp at h
  | cons c rest ih =>
    unfold Memory.read
    split
    · exact ⟨_, rfl⟩
    · next ne =>
      refine ih ?_
      rcases List.mem_cons.1 (by simpa using h : a ∈ c.1 :: rest.map Prod.fst) with e | e
      · exact absurd e.symm ne
      · exact e

/-- A read below FA_COUNT, in a state whose BUF holds the partial frame, is the byte listed there. -/
theorem State.bufRead_of_bufInv {s : State} (h : s.bufInv) {i : Nat} (hi : i < s.faCount.toNat) :
    ∃ b, s.buf.read i = some b ∧ s.bufRead i = .ok b := by
  obtain ⟨b, hb⟩ := Memory.read_isSome (m := s.buf) (a := i) (by rw [h]; simpa using hi)
  exact ⟨b, hb, by simp [State.bufRead, hi, hb]⟩

/-- Reading a prefix of the partial frame answers that many bytes, each the byte at its index (20_memory.md R42). -/
theorem State.bufReadPrefix_of_bufInv {s : State} (h : s.bufInv) {n : Nat} (hn : n ≤ s.faCount.toNat) :
    ∃ held, s.bufReadPrefix n = .ok held ∧ held.length = n ∧ ∀ i < n, s.buf.read i = some (byteAt held i) := by
  induction n with
  | zero => exact ⟨[], rfl, rfl, by simp⟩
  | succ n ih =>
    obtain ⟨held, hr, hl, hv⟩ := ih (by omega)
    obtain ⟨b, hb, hok⟩ := State.bufRead_of_bufInv h (i := n) (by omega)
    refine ⟨held ++ [b], by simp [State.bufReadPrefix, hr, hok], by simp [hl], fun i hi => ?_⟩
    rcases Nat.lt_succ_iff_lt_or_eq.1 hi with lt | rfl
    · rw [hv i lt]
      simp [byteAt, List.getD_eq_getElem?_getD, List.getElem?_append_left (hl ▸ lt)]
    · rw [hb]
      simp [byteAt, List.getD_eq_getElem?_getD, ← hl]

end Sys2Proof.Machine
end

