-- ==== Sys2Proof/Laws/Classify.lean ====
section
/-! SUPPORT. What the helpers answer on every input, and what the classification can find: which reports are reachable, and that under a legal registry it never stops. -/

namespace Sys2Proof.Machine

/-- FRAMELEN is the low nibble and 3 (42_bit_helpers.md R141). -/
theorem framelen_toNat (b : Byte) : (framelen b).toNat = b.toNat % 16 + 3 := by
  simp only [framelen, lennib, BitVec.toNat_add, BitVec.toNat_setWidth, BitVec.toNat_and]
  rw [show BitVec.toNat (15 : Byte) = 2 ^ 4 - 1 from rfl, Nat.and_two_pow_sub_one_eq_mod,
    show BitVec.toNat (3 : BitVec 5) = 3 from rfl]
  omega

/-- BITCOUNT2 is defined on every argument HEADING gives it (42_bit_helpers.md R140). -/
theorem bitcount2_isSome (u : Nibble) : (bitcount2 (u &&& 0xC)).isSome = true := by
  revert u
  decide

theorem heading_isSome (u : Nibble) (vw : Byte) : (heading u vw).isSome = true := by
  simpa [heading] using bitcount2_isSome u

/-- No decoder meets the helper-domain fault (41_dispatcher.md R125). -/
theorem decodeKind_isSome (r : Registry) (k : Kind) (f : Frame) : (decodeKind r k f).isSome = true := by
  cases k
  case headingCourse => simpa [decodeKind, decodeHeadingCourse] using heading_isSome _ _
  all_goals rfl

/-- The registration order holds every kind, in ascending id. -/
theorem Kind.mem_all (k : Kind) : k ∈ Kind.all := by cases k <;> decide

theorem Kind.mem_fromOn {k j : Kind} : j ∈ Kind.fromOn k ↔ k.id ≤ j.id := by cases k <;> cases j <;> decide

theorem Kind.id_injective {j k : Kind} (h : j.id = k.id) : j = k := by
  revert h
  cases j <;> cases k <;> decide

theorem Registry.isCandidate_iff {r : Registry} {f : Frame} {k : Kind} :
    r.isCandidate f k = true ↔ f.head? = some (r.cmd k) ∧ f.length = r.len k := by
  simp [Registry.isCandidate]

/-- Two candidates of one frame share their command byte and their length. -/
theorem Registry.isCandidate_collide {r : Registry} {f : Frame} {i j : Kind} (hi : r.isCandidate f i = true)
    (hj : r.isCandidate f j = true) : r.cmd i = r.cmd j ∧ r.len i = r.len j := by
  rw [Registry.isCandidate_iff] at hi hj
  exact ⟨Option.some.inj (hi.1.symm.trans hj.1), hi.2.symm.trans hj.2⟩

/-- Under an unambiguous registry one candidate of a frame matches at most (41_dispatcher.md R127). -/
theorem Registry.unambiguous.eq_of_match {r : Registry} (hr : r.unambiguous) {f : Frame} (hw : wholeFrame f = true)
    {i j : Kind} (hi : r.isCandidate f i = true) (hj : r.isCandidate f j = true) (mi : matchKind r i f = true)
    (mj : matchKind r j f = true) : i = j := by
  rcases Nat.lt_trichotomy i.id j.id with h | h | h
  · exact absurd ⟨mi, mj⟩ (hr i j f hw h hi hj)
  · exact Kind.id_injective h
  · exact absurd ⟨mj, mi⟩ (hr j i f hw h hj hi)

/-- What a legal registry says of each length (10_state.md R39, 00_scope.md R8). -/
theorem Registry.legal_iff {r : Registry} :
    r.legal = true ↔ 4 ≤ r.lenHeadingCourse ∧ r.lenHeadingCourse ≤ 18 ∧ 4 ≤ r.lenKeystroke ∧ r.lenKeystroke ≤ 18 ∧
      r.lenNavToWaypoint = 9 ∧ 3 ≤ r.lenCalibration ∧ r.lenCalibration ≤ 18 ∧ 3 ≤ r.lenDeadband ∧
      r.lenDeadband ≤ 18 ∧ 3 ≤ r.lenCcWarnings ∧ r.lenCcWarnings ≤ 18 := by
  simp [Registry.legal, isFrameLength]
  omega

/-- Every decoder of a legal registry stays inside its frame (43_codecs.md R160). -/
theorem Registry.bytesNeeded_le_len {r : Registry} (h : r.legal = true) (k : Kind) : bytesNeeded k ≤ r.len k := by
  rw [Registry.legal_iff] at h
  cases k <;> simp only [bytesNeeded, Registry.len] <;> omega

/-- Every LEN_k of a legal registry is a frame's length. -/
theorem Registry.len_bounds {r : Registry} (h : r.legal = true) (k : Kind) : 3 ≤ r.len k ∧ r.len k ≤ 18 := by
  rw [Registry.legal_iff] at h
  cases k <;> simp only [Registry.len] <;> omega

theorem framesFit_of_legal {r : Registry} (h : r.legal = true) (ks : List Kind) (f : Frame) :
    framesFit r ks f = true := by
  simp only [framesFit, List.all_eq_true, List.mem_filter, decide_eq_true_eq]
  rintro k ⟨-, hk⟩
  rw [(Registry.isCandidate_iff.1 hk).2]
  exact Registry.bytesNeeded_le_len h k

/-- Under a legal registry a classification always answers a next state. -/
theorem classifyInto_of_legal {s : State} (h : s.registry.legal = true) (ks : List Kind) (f : Frame) :
    classifyInto ks f s = .next (s.present f (classifyAmong s.registry ks f)) := by
  simp [classifyInto, framesFit_of_legal h]

theorem firstMatch_ne_helperDomain (r : Registry) (f : Frame) (ks : List Kind) :
    firstMatch r f ks ≠ .helperDomain := by
  induction ks with
  | nil => simp [firstMatch]
  | cons k ks ih =>
    unfold firstMatch
    split
    · obtain ⟨d, hd⟩ := Option.isSome_iff_exists.1 (decodeKind_isSome r k f)
      rw [hd]
      simp
    · exact ih

/-- The helper-domain fault is unreachable (42_bit_helpers.md R140). -/
theorem classifyAmong_ne_helperDomain (r : Registry) (ks : List Kind) (f : Frame) :
    classifyAmong r ks f ≠ .helperDomain := by
  unfold classifyAmong
  split
  · simp
  · exact firstMatch_ne_helperDomain r f _

theorem firstMatch_ne_unknown (r : Registry) (f : Frame) (ks : List Kind) : firstMatch r f ks ≠ .unknown := by
  induction ks with
  | nil => simp [firstMatch]
  | cons k ks ih =>
    unfold firstMatch
    split
    · split <;> simp
    · exact ih

/-- RX_UNKNOWN exactly where there is no candidate. -/
theorem classifyAmong_eq_unknown {r : Registry} {ks : List Kind} {f : Frame} :
    classifyAmong r ks f = .unknown ↔ ∀ k ∈ ks, r.isCandidate f k = false := by
  unfold classifyAmong
  split
  · next h => simpa [List.filter_eq_nil_iff] using h
  · next k cands h =>
    refine ⟨fun e => absurd e (firstMatch_ne_unknown r f _), fun e => ?_⟩
    have hk : k ∈ ks.filter (r.isCandidate f) := h ▸ List.mem_cons_self
    rw [List.mem_filter] at hk
    rw [e k hk.1] at hk
    exact absurd hk.2 (by simp)

/-- The first candidate that matches is decoded, whatever stands after it. -/
theorem firstMatch_of_first {r : Registry} {f : Frame} {k : Kind} {pre post : List Kind} {d : Decoded}
    (hpre : ∀ j ∈ pre, matchKind r j f = false) (hk : matchKind r k f = true) (hd : decodeKind r k f = some d) :
    firstMatch r f (pre ++ k :: post) = .message d.1 d.2 := by
  induction pre with
  | nil => simp [firstMatch, hk, hd]
  | cons j pre ih =>
    rw [List.cons_append, firstMatch, hpre j List.mem_cons_self]
    simpa using ih fun i hi => hpre i (List.mem_cons_of_mem _ hi)

/-- RX_MALFORMED where candidates exist and none matches. -/
theorem firstMatch_eq_malformed {r : Registry} {f : Frame} {ks : List Kind} :
    firstMatch r f ks = .malformed ↔ ∀ k ∈ ks, matchKind r k f = false := by
  induction ks with
  | nil => simp [firstMatch]
  | cons k ks ih =>
    unfold firstMatch
    cases hk : matchKind r k f with
    | true => simp only [if_true]; split <;> simp [hk]
    | false => simpa [hk] using ih

/-- A decode row's instruction whose kind is a candidate and matches delivers that kind's record. -/
theorem classifyAmong_fromOn_of_match {r : Registry} {f : Frame} {k : Kind} {d : Decoded}
    (hc : r.isCandidate f k = true) (hm : matchKind r k f = true) (hd : decodeKind r k f = some d) :
    classifyAmong r (Kind.fromOn k) f = .message d.1 d.2 := by
  obtain ⟨post, hp⟩ : ∃ post, Kind.fromOn k = k :: post := by cases k <;> exact ⟨_, rfl⟩
  have : (Kind.fromOn k).filter (r.isCandidate f) = [] ++ k :: post.filter (r.isCandidate f) := by
    rw [hp, List.filter_cons_of_pos (by simpa using hc), List.nil_append]
  simp only [classifyAmong, this, List.nil_append]
  simpa using firstMatch_of_first (pre := []) (post := post.filter (r.isCandidate f)) (by simp) hm hd

/-- The classification over all kinds is that over the kinds from the first candidate on. -/
theorem classify_eq_fromOn {r : Registry} {f : Frame} {k : Kind}
    (h : Kind.all.find? (r.isCandidate f) = some k) : classify r f = classifyAmong r (Kind.fromOn k) f := by
  obtain ⟨-, pre, post, hall, hpre⟩ := List.find?_eq_some_iff_append.1 h
  have hdrop : Kind.fromOn k = k :: post := by
    have hlen : pre.length = k.id := by
      have h1 : Kind.all[pre.length]? = some k := by rw [hall]; simp
      have h2 : ∀ n < 12, Kind.all[n]? = some k → n = k.id := by cases k <;> decide
      refine h2 _ ?_ h1
      have := congrArg List.length hall
      simp [Kind.all] at this
      omega
    rw [Kind.fromOn, hall, ← hlen, List.drop_left]
  have hnil : pre.filter (r.isCandidate f) = [] :=
    List.filter_eq_nil_iff.2 fun j hj => by simpa using hpre j hj
  simp [classify, classifyAmong, hall, hdrop, hnil]

/-- What presenting a report changes: RX, TX and DIAG, and FAULT only on the helper-domain fault. -/
theorem State.present_eq (s : State) (f : Frame) {rep : Report} (h : rep ≠ .helperDomain) :
    s.present f rep = { s with
      rx := (s.present f rep).rx
      tx := .none
      diag := (s.present f rep).diag } := by
  cases rep
  case helperDomain => exact absurd rfl h
  all_goals rfl

end Sys2Proof.Machine
end

