-- ==== Sys2Proof/Laws/Decode.lean ====
section
/-! SUPPORT. The fields of an event word, and the word as a number (spec/30_encoding.md R70). -/

namespace Sys2Proof

open Sys2Proof.Machine

/-- The event word as a number: OP in bits 3:0, KIND in bits 7:4, DATA in bits 15:8. -/
theorem eventWord_toNat (op kind : Nibble) (data : Byte) :
    (eventWord op kind data).toNat = data.toNat * 256 + kind.toNat * 16 + op.toNat := by
  have ho := op.isLt
  have hk := kind.isLt
  simp only [eventWord, BitVec.toNat_append]
  rw [← Nat.shiftLeft_add_eq_or_of_lt ho, ← Nat.shiftLeft_add_eq_or_of_lt hk, Nat.shiftLeft_eq, Nat.shiftLeft_eq]
  omega

@[simp] theorem eventOp_toNat (e : EventWord) : (eventOp e).toNat = e.toNat % 16 := by
  simp [eventOp, BitVec.extractLsb'_toNat]

@[simp] theorem eventKind_toNat (e : EventWord) : (eventKind e).toNat = e.toNat / 16 % 16 := by
  simp [eventKind, BitVec.extractLsb'_toNat, Nat.shiftRight_eq_div_pow]

@[simp] theorem eventData_toNat (e : EventWord) : (eventData e).toNat = e.toNat / 256 := by
  have := e.isLt
  simp only [eventData, BitVec.extractLsb'_toNat, Nat.shiftRight_eq_div_pow]
  omega

@[simp] theorem eventOp_eventWord (op kind : Nibble) (data : Byte) : eventOp (eventWord op kind data) = op := by
  apply BitVec.eq_of_toNat_eq
  have := op.isLt
  rw [eventOp_toNat, eventWord_toNat]
  omega

@[simp] theorem eventKind_eventWord (op kind : Nibble) (data : Byte) : eventKind (eventWord op kind data) = kind := by
  apply BitVec.eq_of_toNat_eq
  have := op.isLt
  have := kind.isLt
  rw [eventKind_toNat, eventWord_toNat]
  omega

@[simp] theorem eventData_eventWord (op kind : Nibble) (data : Byte) : eventData (eventWord op kind data) = data := by
  apply BitVec.eq_of_toNat_eq
  have := op.isLt
  have := kind.isLt
  rw [eventData_toNat, eventWord_toNat]
  omega

/-- An event word is made of its three fields. -/
theorem eventWord_fields (e : EventWord) : eventWord (eventOp e) (eventKind e) (eventData e) = e := by
  apply BitVec.eq_of_toNat_eq
  rw [eventWord_toNat, eventOp_toNat, eventKind_toNat, eventData_toNat]
  omega

end Sys2Proof
end

