-- ==== Sys2Proof/Laws/FrameAssembler.lean ====
section
/-! SUPPORT. What the Frame Assembler's events can do: one equation per FA_STATE for BYTE_IN, and what completes a frame in a state that meets the invariant. -/

namespace Sys2Proof.Machine

/-- BYTE_IN in S_CMD. -/
theorem execByteIn_sCmd {s : State} (h : s.faState = .sCmd) (b : Byte) :
    execByteIn b s = .next { s with
      faState := .sAttr, faCount := 1, buf := Memory.write s.buf 0 b, rx := .needMore, tx := .none, diag := 0 } := by
  simp only [execByteIn, h, acceptCommand, State.bufWrite]
  rfl

/-- BYTE_IN in S_ATTR. -/
theorem execByteIn_sAttr {s : State} (h : s.faState = .sAttr) (b : Byte) :
    execByteIn b s = .next { s with
      faState := .sPayload, faCount := 2, faLen := framelen b, buf := Memory.write s.buf 1 b, rx := .needMore
      tx := .none, diag := 0 } := by
  simp only [execByteIn, h, acceptAttribute, State.bufWrite]
  rfl

/-- BYTE_IN in S_PAYLOAD with no room left in BUF. -/
theorem execByteIn_sPayload_full {s : State} (h : s.faState = .sPayload) (hc : 18 ≤ s.faCount.toNat) (b : Byte) :
    execByteIn b s = .fault .bufAddress := by
  simp only [execByteIn, h, acceptPayload, State.bufWrite, if_neg (show ¬ s.faCount.toNat < 18 by omega)]

/-- BYTE_IN in S_PAYLOAD where the frame goes on. -/
theorem execByteIn_sPayload_more {s : State} (h : s.faState = .sPayload) (hc : s.faCount.toNat < 18)
    (hl : s.faCount.toNat + 1 ≠ s.faLen.toNat) (b : Byte) :
    execByteIn b s = .next { s with
      faCount := s.faCount + 1, buf := Memory.write s.buf s.faCount.toNat b, rx := .needMore, tx := .none
      diag := 0 } := by
  simp only [execByteIn, h, acceptPayload, State.bufWrite, if_pos hc, if_neg hl]
  rfl

/-- BYTE_IN in S_PAYLOAD where the byte is the frame's last. -/
theorem execByteIn_sPayload_last {s : State} (h : s.faState = .sPayload) (hc : s.faCount.toNat < 18)
    (hl : s.faCount.toNat + 1 = s.faLen.toNat) (b : Byte) :
    execByteIn b s = completeFrame b { s with buf := Memory.write s.buf s.faCount.toNat b } := by
  simp only [execByteIn, h, acceptPayload, State.bufWrite, if_pos hc, if_pos hl]

/-- A prefix below the address written is read as before. -/
theorem State.bufReadPrefix_write (s : State) {n i : Nat} (hn : n ≤ i) (b : Byte) :
    State.bufReadPrefix { s with buf := Memory.write s.buf i b } n = s.bufReadPrefix n := by
  induction n with
  | zero => rfl
  | succ n ih =>
    have : State.bufRead { s with buf := Memory.write s.buf i b } n = s.bufRead n := by
      simp only [State.bufRead]
      rw [Memory.read_write_other _ _ (by omega)]
    simp only [State.bufReadPrefix, ih (by omega), this]

/-- The last byte of a frame, in a state that meets the invariant: the bytes held and this one are a whole frame, which is
classified at the frame boundary (40_frame_assembler.md R103). -/
theorem execByteIn_completes {s : State} (hi : s.Inv) (hs : s.faState = .sPayload)
    (hc : s.faCount.toNat + 1 = s.faLen.toNat) (b : Byte) :
    ∃ held, s.bufReadPrefix s.faCount.toNat = .ok held ∧ (held ++ [b]).length = s.faLen.toNat ∧
      (∀ i < s.faCount.toNat, s.buf.read i = some (byteAt held i)) ∧ wholeFrame (held ++ [b]) = true ∧
      execByteIn b s = .next (s.dropFrame.present (held ++ [b]) (classify s.registry (held ++ [b]))) := by
  have hcount := hi.count
  simp only [State.countInv, hs] at hcount
  obtain ⟨held, hr, hl, hv⟩ := State.bufReadPrefix_of_bufInv hi.buf (le_refl _)
  refine ⟨held, hr, by simp [hl, hc], hv, ?_, ?_⟩
  · obtain ⟨a, ha, hlen⟩ := hi.length hs
    have h1 : byteAt held 1 = a := by
      rw [hv 1 (by omega)] at ha
      simpa using ha
    have h2 : byteAt (held ++ [b]) 1 = a := by
      rw [← h1]
      simp [byteAt, List.getD_eq_getElem?_getD, List.getElem?_append_left (show 1 < held.length by omega)]
    simp only [wholeFrame, h2, ← hlen, Bool.and_eq_true, decide_eq_true_eq, List.length_append, List.length_singleton]
    omega
  · rw [execByteIn_sPayload_last hs (by omega) hc]
    unfold completeFrame
    rw [show (State.faLen { s with buf := Memory.write s.buf s.faCount.toNat b }).toNat - 1 = s.faCount.toNat by
      show s.faLen.toNat - 1 = _; omega, State.bufReadPrefix_write s (le_refl _), hr]
    show classifyInto Kind.all (held ++ [b]) s.dropFrame = _
    rw [classifyInto_of_legal (s := s.dropFrame) hi.registry]
    rfl

/-- What presenting a reachable report leaves unchanged. -/
theorem State.present_spec (s : State) (f : Frame) {rep : Report} (h : rep ≠ .helperDomain) :
    ∃ rx diag, s.present f rep = { s with rx := rx, tx := .none, diag := diag } :=
  ⟨_, _, s.present_eq f h⟩

end Sys2Proof.Machine
end

