-- ==== Sys2Proof/Laws/Helpers.lean ====
section
/-! SUPPORT. Each bit helper of spec/42_bit_helpers.md as arithmetic on numbers: the forms a statement about a frame's bytes uses. -/

namespace Sys2Proof.Machine

/-- AUXNIB is the byte divided by 16 (R142). -/
theorem auxnib_eq (a : Byte) : auxnib a = BitVec.ofNat 4 (a.toNat / 16) := by
  revert a
  decide

/-- NOT8 is the bitwise complement (R144). -/
theorem not8_eq (a : Byte) : not8 a = ~~~a := by
  revert a
  decide

/-- COMPL holds of a byte and its complement only (R144). -/
theorem compl8_iff {a b : Byte} : compl8 a b = true ↔ b = ~~~a := by
  simp only [compl8, decide_eq_true_eq]
  constructor
  · intro h
    apply BitVec.eq_of_toNat_eq
    simp
    omega
  · rintro rfl
    have := a.isLt
    simp
    omega

/-- A disjunction of bits that do not meet is a sum. -/
theorem or_eq_add {a k : Nat} (b : Nat) (h : a < 2 ^ k) : a ||| b * 2 ^ k = a + b * 2 ^ k := by
  rw [Nat.or_comm, ← Nat.shiftLeft_eq, ← Nat.shiftLeft_add_eq_or_of_lt h, Nat.add_comm]

/-- U16BE: the first byte is the most significant (R143). -/
theorem u16be_eq (hi lo : Byte) : u16be hi lo = BitVec.ofNat 16 (hi.toNat * 256 + lo.toNat) := by
  have hh := hi.isLt
  have hl := lo.isLt
  apply BitVec.eq_of_toNat_eq
  simp only [u16be, BitVec.toNat_or, BitVec.toNat_shiftLeft, BitVec.toNat_setWidth, BitVec.toNat_ofNat, Nat.shiftLeft_eq]
  rw [Nat.mod_eq_of_lt (show hi.toNat < 2 ^ 16 by omega), Nat.mod_eq_of_lt (show hi.toNat * 2 ^ 8 < 2 ^ 16 by omega),
    Nat.mod_eq_of_lt (show lo.toNat < 2 ^ 16 by omega), Nat.or_comm, or_eq_add _ hl]
  omega

/-- SPLIT16: quotient and remainder by 256 (R143). -/
theorem split16_eq (v : BitVec 16) :
    split16 v = (BitVec.ofNat 8 (v.toNat / 256), BitVec.ofNat 8 (v.toNat % 256)) := by
  simp only [split16, Prod.mk.injEq]
  constructor <;> apply BitVec.eq_of_toNat_eq
  · simp [Nat.shiftRight_eq_div_pow]
  · simp only [BitVec.toNat_setWidth, BitVec.toNat_and, BitVec.toNat_ofNat]
    rw [show BitVec.toNat (255 : BitVec 16) = 2 ^ 8 - 1 from rfl, Nat.and_two_pow_sub_one_eq_mod]

/-- U12: the byte above the nibble (R151). -/
theorem u12_eq (hi : Byte) (lo : Nibble) : u12 hi lo = BitVec.ofNat 12 (hi.toNat * 16 + lo.toNat) := by
  have hh := hi.isLt
  have hl := lo.isLt
  apply BitVec.eq_of_toNat_eq
  simp only [u12, BitVec.toNat_or, BitVec.toNat_shiftLeft, BitVec.toNat_setWidth, BitVec.toNat_ofNat, Nat.shiftLeft_eq]
  rw [Nat.mod_eq_of_lt (show hi.toNat < 2 ^ 12 by omega), Nat.mod_eq_of_lt (show hi.toNat * 2 ^ 4 < 2 ^ 12 by omega),
    Nat.mod_eq_of_lt (show lo.toNat < 2 ^ 12 by omega), Nat.or_comm, or_eq_add _ hl]
  omega

/-- The attribute byte of a frame's length: the auxiliary nibble times 16, and the length nibble (30_encoding.md R60). -/
theorem attributeByte_eq (aux : Nibble) {n : Nat} (h3 : 3 ≤ n) (h18 : n ≤ 18) :
    attributeByte aux n = BitVec.ofNat 8 (aux.toNat * 16 + (n - 3)) := by
  have : ∀ aux : Nibble, ∀ m : Fin 16,
      (aux.setWidth 8 <<< 4 ||| (BitVec.ofNat 4 m.val).setWidth 8 : Byte) = BitVec.ofNat 8 (aux.toNat * 16 + m.val) := by
    decide
  exact this aux ⟨n - 3, by omega⟩

/-- An attribute byte gives its auxiliary nibble back. -/
theorem auxnib_attributeByte (aux : Nibble) {n : Nat} (h3 : 3 ≤ n) (h18 : n ≤ 18) :
    auxnib (attributeByte aux n) = aux := by
  have := aux.isLt
  rw [attributeByte_eq aux h3 h18, auxnib_eq]
  apply BitVec.eq_of_toNat_eq
  simp
  omega

/-- A frame is whole where its length is the one its second byte announces. -/
theorem wholeFrame_cons {c a : Byte} {rest : List Byte} :
    wholeFrame (c :: a :: rest) = true ↔ rest.length + 2 = a.toNat % 16 + 3 := by
  simp [wholeFrame, framelen_toNat, byteAt]

/-- A whole frame has 3 to 18 bytes (00_scope.md R7). -/
theorem wholeFrame_length {f : Frame} (h : wholeFrame f = true) : 3 ≤ f.length ∧ f.length ≤ 18 := by
  simp only [wholeFrame, Bool.and_eq_true, decide_eq_true_eq, framelen_toNat] at h
  omega

/-- PACK6x4: three bytes with the four codes, the first lowest (R147). -/
theorem pack6x4_sum (c0 c1 c2 c3 : BitVec 6) :
    (pack6x4 c0 c1 c2 c3).1.toNat + (pack6x4 c0 c1 c2 c3).2.1.toNat * 2 ^ 8 + (pack6x4 c0 c1 c2 c3).2.2.toNat * 2 ^ 16 =
      c0.toNat + c1.toNat * 2 ^ 6 + c2.toNat * 2 ^ 12 + c3.toNat * 2 ^ 18 := by
  have h0 := c0.isLt
  have h1 := c1.isLt
  have h2 := c2.isLt
  have h3 := c3.isLt
  have hw : (c0.setWidth 24 ||| (c1.setWidth 24 <<< 6) ||| (c2.setWidth 24 <<< 12) ||| (c3.setWidth 24 <<< 18)
      : BitVec 24).toNat = c0.toNat + c1.toNat * 2 ^ 6 + c2.toNat * 2 ^ 12 + c3.toNat * 2 ^ 18 := by
    simp only [BitVec.toNat_or, BitVec.toNat_shiftLeft, BitVec.toNat_setWidth, Nat.shiftLeft_eq]
    rw [Nat.mod_eq_of_lt (show c0.toNat < 2 ^ 24 by omega), Nat.mod_eq_of_lt (show c1.toNat < 2 ^ 24 by omega),
      Nat.mod_eq_of_lt (show c2.toNat < 2 ^ 24 by omega), Nat.mod_eq_of_lt (show c3.toNat < 2 ^ 24 by omega),
      Nat.mod_eq_of_lt (show c1.toNat * 2 ^ 6 < 2 ^ 24 by omega),
      Nat.mod_eq_of_lt (show c2.toNat * 2 ^ 12 < 2 ^ 24 by omega),
      Nat.mod_eq_of_lt (show c3.toNat * 2 ^ 18 < 2 ^ 24 by omega), or_eq_add _ h0,
      or_eq_add (k := 12) _ (by omega), or_eq_add (k := 18) _ (by omega)]
  simp only [pack6x4, BitVec.extractLsb'_toNat, hw, Nat.shiftRight_eq_div_pow]
  omega

/-- UNPACK6x4 in shift form (R147). -/
theorem unpack6x4_eq (x y z : Byte) :
    unpack6x4 x y z =
      (BitVec.ofNat 6 (x.toNat % 64), BitVec.ofNat 6 (x.toNat / 64 + y.toNat % 16 * 4),
        BitVec.ofNat 6 (y.toNat / 16 + z.toNat % 4 * 16), BitVec.ofNat 6 (z.toNat / 4)) := by
  have hx := x.isLt
  have hy := y.isLt
  have hz := z.isLt
  have hw : (x.setWidth 24 ||| (y.setWidth 24 <<< 8) ||| (z.setWidth 24 <<< 16) : BitVec 24).toNat =
      x.toNat + y.toNat * 2 ^ 8 + z.toNat * 2 ^ 16 := by
    simp only [BitVec.toNat_or, BitVec.toNat_shiftLeft, BitVec.toNat_setWidth, Nat.shiftLeft_eq]
    rw [Nat.mod_eq_of_lt (show x.toNat < 2 ^ 24 by omega), Nat.mod_eq_of_lt (show y.toNat < 2 ^ 24 by omega),
      Nat.mod_eq_of_lt (show z.toNat < 2 ^ 24 by omega), Nat.mod_eq_of_lt (show y.toNat * 2 ^ 8 < 2 ^ 24 by omega),
      Nat.mod_eq_of_lt (show z.toNat * 2 ^ 16 < 2 ^ 24 by omega), or_eq_add _ hx, or_eq_add (k := 16) _ (by omega)]
  simp only [unpack6x4, Prod.mk.injEq]
  refine ⟨?_, ?_, ?_, ?_⟩ <;> apply BitVec.eq_of_toNat_eq <;> rw [BitVec.extractLsb'_toNat, hw, BitVec.toNat_ofNat] <;>
    simp only [Nat.shiftRight_eq_div_pow] <;> omega

/-- COURSEHALF as a number (R146). -/
theorem coursehalf_toNat (vw x : Byte) : (coursehalf vw x).toNat = vw.toNat / 64 * 180 + x.toNat := by
  have h6 : (vw >>> 6).toNat = vw.toNat / 64 := by
    revert vw
    decide
  have := vw.isLt
  have := x.isLt
  simp only [coursehalf, BitVec.toNat_add, BitVec.toNat_mul, BitVec.toNat_setWidth, h6]
  simp
  omega

/-- HEADING as a number: the quadrant, the 2-degree steps, and the two upper bits of the nibble counted (R145). -/
theorem heading_eq (u : Nibble) (vw : Byte) : ∃ h, heading u vw = some h ∧
    h.toNat = u.toNat % 4 * 90 + vw.toNat % 64 * 2 + (u.toNat / 4 % 2 + u.toNat / 8) := by
  have hb : ∀ u : Nibble, ∃ e, bitcount2 (u &&& 0xC) = some e ∧ e.toNat = u.toNat / 4 % 2 + u.toNat / 8 := by decide
  have h3 : (u &&& 0x3).toNat = u.toNat % 4 := by
    revert u
    decide
  have h6 : (vw &&& 0x3F).toNat = vw.toNat % 64 := by
    revert vw
    decide
  obtain ⟨e, he, hn⟩ := hb u
  refine ⟨_, by simp only [heading, he]; rfl, ?_⟩
  have := u.isLt
  simp only [BitVec.toNat_add, BitVec.toNat_mul, BitVec.toNat_setWidth, h3, h6, hn]
  simp
  omega

end Sys2Proof.Machine
end

