-- ==== Sys2Proof/Laws/PerInstr.lean ====
section
/-! SUPPORT. A second reading of spec/opcode_table.json, instruction by instruction: the 16 bits of every well-formed instruction's code have the bits the table's row fixes. -/

namespace Sys2Proof.Laws.TableRow

open Sys2Proof.Machine

/-- The 16 bits of a code that the table numbers: the event word, or the selection word of a frame (30_encoding.md R62). -/
def bits : Code → EventWord
  | .event e => e
  | .frame f => u16be (byteAt f 0) (byteAt f 1)

/-- A row's mask and match, as spec/opcode_table.json gives them. -/
def row : Instr → EventWord × EventWord
  | .nop => (0xFFFF, 0x0000)
  | .byteIn _ => (0x00FF, 0x0001)
  | .sourceClosed => (0xFFFF, 0x0002)
  | .cancel => (0xFFFF, 0x0003)
  | .encode _ => (0xFF0F, 0x0004)
  | .decodeHeadingCourse _ => (0xFF0F, 0x8406)
  | .decodeWindAngle _ => (0xFF0F, 0x1001)
  | .decodeWindSpeed _ => (0xFF0F, 0x1101)
  | .decodeKeystroke _ => (0xFF0F, 0x8601)
  | .decodeWaypointName _ => (0xFF0F, 0x8205)
  | .decodeNavToWaypoint _ => (0xFF0F, 0x8506)
  | .decodeCalibration _ => (0xFF0F, 0x8803)
  | .decodeDeadband _ => (0xFF0F, 0x8700)
  | .decodeLamp _ => (0xFF0F, 0x3000)
  | .decodeStw _ => (0xFF0F, 0x2001)
  | .decodeCcWarnings _ => (0xFF0F, 0x8307)
  | .decodeApWindStatus _ => (0xFF0F, 0x1100)
  | .encHeadingCourse => (0xFFFF, 0x0004)
  | .encWindAngle => (0xFFFF, 0x0014)
  | .encWindSpeed => (0xFFFF, 0x0024)
  | .encKeystroke => (0xFFFF, 0x0034)
  | .encWaypointName => (0xFFFF, 0x0044)
  | .encNavToWaypoint => (0xFFFF, 0x0054)
  | .encCalibration => (0xFFFF, 0x0064)
  | .encDeadband => (0xFFFF, 0x0074)
  | .encLamp => (0xFFFF, 0x0084)
  | .encStw => (0xFFFF, 0x0094)
  | .encCcWarnings => (0xFFFF, 0x00A4)
  | .encApWindStatus => (0xFFFF, 0x00B4)
  | .illegalOp5 _ _ => (0x000F, 0x0005)
  | .illegalOp6 _ _ => (0x000F, 0x0006)
  | .illegalOp7 _ _ => (0x000F, 0x0007)
  | .illegalOp8 _ _ => (0x000F, 0x0008)
  | .illegalOp9 _ _ => (0x000F, 0x0009)
  | .illegalOpA _ _ => (0x000F, 0x000A)
  | .illegalOpB _ _ => (0x000F, 0x000B)
  | .illegalOpC _ _ => (0x000F, 0x000C)
  | .illegalOpD _ _ => (0x000F, 0x000D)
  | .illegalOpE _ _ => (0x000F, 0x000E)
  | .illegalOpF _ _ => (0x000F, 0x000F)

/-- The code of a well-formed instruction has the bits its row fixes (under the default registry, whose command bytes
and lengths the table's DECODE rows show). -/
def Statement (i : Instr) : Prop := WellFormed defaultRegistry i = true → bits (encode i) &&& (row i).1 = (row i).2

theorem eventWord_and_op (op kind : Nibble) (data : Byte) :
    eventWord op kind data &&& 0x000F = op.setWidth 16 := by
  apply BitVec.eq_of_toNat_eq
  have := op.isLt
  rw [BitVec.toNat_and, eventWord_toNat, show BitVec.toNat (0x000F : EventWord) = 2 ^ 4 - 1 from rfl,
    Nat.and_two_pow_sub_one_eq_mod, BitVec.toNat_setWidth]
  omega

/-- The selection word of a whole frame of a kind (30_encoding.md R62). -/
theorem bits_frame {k : Kind} {f : Frame} (h : frameOf defaultRegistry k f = true) :
    ∃ b, bits (.frame f) = u16be (defaultRegistry.cmd k) b ∧ (framelen b).toNat = defaultRegistry.len k := by
  simp only [frameOf, wholeFrame, selects, Bool.and_eq_true, decide_eq_true_eq] at h
  obtain ⟨⟨-, hl⟩, hs⟩ := h
  obtain ⟨hc, hn⟩ := Registry.isCandidate_iff.1 (List.find?_some hs)
  refine ⟨byteAt f 1, ?_, by omega⟩
  have : byteAt f 0 = defaultRegistry.cmd k := by
    cases f with
    | nil => simp at hc
    | cons a f => simpa [byteAt] using hc
  simp [bits, this]

theorem nop : Statement .nop := fun _ => by decide

theorem byteIn (data : Byte) : Statement (.byteIn data) := by
  revert data
  unfold Statement
  decide

theorem sourceClosed : Statement .sourceClosed := fun _ => by decide

theorem cancel : Statement .cancel := fun _ => by decide

theorem encode (kind : Nibble) : Statement (.encode kind) := by
  revert kind
  unfold Statement
  decide

theorem decodeHeadingCourse (f : Frame) : Statement (.decodeHeadingCourse f) := fun h => by
  obtain ⟨b, hb, hl⟩ := bits_frame h
  show bits (.frame f) &&& 0xFF0F = 0x8406
  rw [hb]
  clear h hb
  revert b
  decide

theorem decodeWindAngle (f : Frame) : Statement (.decodeWindAngle f) := fun h => by
  obtain ⟨b, hb, hl⟩ := bits_frame h
  show bits (.frame f) &&& 0xFF0F = 0x1001
  rw [hb]
  clear h hb
  revert b
  decide

theorem decodeWindSpeed (f : Frame) : Statement (.decodeWindSpeed f) := fun h => by
  obtain ⟨b, hb, hl⟩ := bits_frame h
  show bits (.frame f) &&& 0xFF0F = 0x1101
  rw [hb]
  clear h hb
  revert b
  decide

theorem decodeKeystroke (f : Frame) : Statement (.decodeKeystroke f) := fun h => by
  obtain ⟨b, hb, hl⟩ := bits_frame h
  show bits (.frame f) &&& 0xFF0F = 0x8601
  rw [hb]
  clear h hb
  revert b
  decide

theorem decodeWaypointName (f : Frame) : Statement (.decodeWaypointName f) := fun h => by
  obtain ⟨b, hb, hl⟩ := bits_frame h
  show bits (.frame f) &&& 0xFF0F = 0x8205
  rw [hb]
  clear h hb
  revert b
  decide

theorem decodeNavToWaypoint (f : Frame) : Statement (.decodeNavToWaypoint f) := fun h => by
  obtain ⟨b, hb, hl⟩ := bits_frame h
  show bits (.frame f) &&& 0xFF0F = 0x8506
  rw [hb]
  clear h hb
  revert b
  decide

theorem decodeCalibration (f : Frame) : Statement (.decodeCalibration f) := fun h => by
  obtain ⟨b, hb, hl⟩ := bits_frame h
  show bits (.frame f) &&& 0xFF0F = 0x8803
  rw [hb]
  clear h hb
  revert b
  decide

theorem decodeDeadband (f : Frame) : Statement (.decodeDeadband f) := fun h => by
  obtain ⟨b, hb, hl⟩ := bits_frame h
  show bits (.frame f) &&& 0xFF0F = 0x8700
  rw [hb]
  clear h hb
  revert b
  decide

theorem decodeLamp (f : Frame) : Statement (.decodeLamp f) := fun h => by
  obtain ⟨b, hb, hl⟩ := bits_frame h
  show bits (.frame f) &&& 0xFF0F = 0x3000
  rw [hb]
  clear h hb
  revert b
  decide

theorem decodeStw (f : Frame) : Statement (.decodeStw f) := fun h => by
  obtain ⟨b, hb, hl⟩ := bits_frame h
  show bits (.frame f) &&& 0xFF0F = 0x2001
  rw [hb]
  clear h hb
  revert b
  decide

theorem decodeCcWarnings (f : Frame) : Statement (.decodeCcWarnings f) := fun h => by
  obtain ⟨b, hb, hl⟩ := bits_frame h
  show bits (.frame f) &&& 0xFF0F = 0x8307
  rw [hb]
  clear h hb
  revert b
  decide

theorem decodeApWindStatus (f : Frame) : Statement (.decodeApWindStatus f) := fun h => by
  obtain ⟨b, hb, hl⟩ := bits_frame h
  show bits (.frame f) &&& 0xFF0F = 0x1100
  rw [hb]
  clear h hb
  revert b
  decide

theorem encHeadingCourse : Statement .encHeadingCourse := fun _ => by decide

theorem encWindAngle : Statement .encWindAngle := fun _ => by decide

theorem encWindSpeed : Statement .encWindSpeed := fun _ => by decide

theorem encKeystroke : Statement .encKeystroke := fun _ => by decide

theorem encWaypointName : Statement .encWaypointName := fun _ => by decide

theorem encNavToWaypoint : Statement .encNavToWaypoint := fun _ => by decide

theorem encCalibration : Statement .encCalibration := fun _ => by decide

theorem encDeadband : Statement .encDeadband := fun _ => by decide

theorem encLamp : Statement .encLamp := fun _ => by decide

theorem encStw : Statement .encStw := fun _ => by decide

theorem encCcWarnings : Statement .encCcWarnings := fun _ => by decide

theorem encApWindStatus : Statement .encApWindStatus := fun _ => by decide

theorem illegalOp5 (kind : Nibble) (data : Byte) : Statement (.illegalOp5 kind data) := fun _ => eventWord_and_op _ kind data

theorem illegalOp6 (kind : Nibble) (data : Byte) : Statement (.illegalOp6 kind data) := fun _ => eventWord_and_op _ kind data

theorem illegalOp7 (kind : Nibble) (data : Byte) : Statement (.illegalOp7 kind data) := fun _ => eventWord_and_op _ kind data

theorem illegalOp8 (kind : Nibble) (data : Byte) : Statement (.illegalOp8 kind data) := fun _ => eventWord_and_op _ kind data

theorem illegalOp9 (kind : Nibble) (data : Byte) : Statement (.illegalOp9 kind data) := fun _ => eventWord_and_op _ kind data

theorem illegalOpA (kind : Nibble) (data : Byte) : Statement (.illegalOpA kind data) := fun _ => eventWord_and_op _ kind data

theorem illegalOpB (kind : Nibble) (data : Byte) : Statement (.illegalOpB kind data) := fun _ => eventWord_and_op _ kind data

theorem illegalOpC (kind : Nibble) (data : Byte) : Statement (.illegalOpC kind data) := fun _ => eventWord_and_op _ kind data

theorem illegalOpD (kind : Nibble) (data : Byte) : Statement (.illegalOpD kind data) := fun _ => eventWord_and_op _ kind data

theorem illegalOpE (kind : Nibble) (data : Byte) : Statement (.illegalOpE kind data) := fun _ => eventWord_and_op _ kind data

theorem illegalOpF (kind : Nibble) (data : Byte) : Statement (.illegalOpF kind data) := fun _ => eventWord_and_op _ kind data

end Sys2Proof.Laws.TableRow
end

