-- ==== Sys2Proof/Laws/Step.lean ====
section
/-! SUPPORT. Everything a step can do, said once: the inversion lemmas of step, of exec and of each event, and the equations of the decode, encode and reserved rows. -/

namespace Sys2Proof.Machine

/-! ### Equations -/

/-- A decode row classifies among the kinds from its own on. -/
theorem exec_decodeRow (k : Kind) (f : Frame) (s : State) :
    exec (decodeRow k f) s = classifyInto (Kind.fromOn k) f s := by
  cases k <;> rfl

/-- An encode row writes the answer of its kind's encoder. -/
theorem exec_encRow (k : Kind) (s : State) :
    exec (encRow k) s = .next (s.presentTx (encodeKind s.registry k s.opnd)) := by
  cases k <;> rfl

/-- A reserved row is an illegal event. -/
theorem exec_of_reserved {i : Instr} (h : reserved i) (s : State) : exec i s = .next s.illegalEvent := by
  obtain ⟨k, d, h⟩ := h
  simp only [List.mem_cons, List.not_mem_nil, or_false] at h
  rcases h with rfl | rfl | rfl | rfl | rfl | rfl | rfl | rfl | rfl | rfl | rfl <;> rfl

/-- A KIND field names a kind below 12, and none from 12 on. -/
theorem Kind.ofId_cases (kind : Nibble) :
    (∃ k, Kind.ofId kind = some k ∧ kind.toNat < 12) ∨ (Kind.ofId kind = none ∧ 12 ≤ kind.toNat) := by
  revert kind
  decide

/-- A decode row whose kind is a candidate and matches delivers its record. -/
theorem exec_decodeRow_of_match {s : State} {k : Kind} {f : Frame} {d : Decoded} (h : s.registry.legal = true)
    (hc : f.head? = some (s.registry.cmd k)) (hl : f.length = s.registry.len k)
    (hm : matchKind s.registry k f = true) (hd : decodeKind s.registry k f = some d) :
    exec (decodeRow k f) s = .next { s with rx := .message d.1 f, tx := .none, diag := d.2 } := by
  rw [exec_decodeRow, classifyInto_of_legal h,
    classifyAmong_fromOn_of_match (Registry.isCandidate_iff.2 ⟨hc, hl⟩) hm hd]
  rfl

/-- What presenting a classification leaves unchanged: everything but RX, TX and DIAG. -/
theorem State.present_classifyAmong (s : State) (f : Frame) (r : Registry) (ks : List Kind) :
    ∃ rx diag, s.present f (classifyAmong r ks f) = { s with rx := rx, tx := .none, diag := diag } :=
  s.present_spec f (classifyAmong_ne_helperDomain r ks f)

/-- Taking an event off the list of presentations. -/
theorem State.take_event {s : State} {p : Presentation} {rest : List Presentation} (h : s.input = p :: rest)
    (hr : p.rst = false) : s.take = .event p.ev { s with input := rest, opnd := p.opnd } := by
  simp [State.take, h, hr]

/-- Running one more step, for any machine. -/
theorem run_succ_of_next {M : Host.Core} {n : Nat} {s t : M.State} (h : M.step s = .next t) :
    M.run (n + 1) s = M.run n t := by
  rw [Host.Core.run, h]

/-- Running one more step of the BFC. -/
theorem run_succ {n : Nat} {s t : State} (h : step s = .next t) : core.run (n + 1) s = core.run n t :=
  run_succ_of_next (M := core) h

/-! ### Inversions -/

/-- Everything BYTE_IN can do when it answers a next state. -/
theorem execByteIn_cases {b : Byte} {s t : State} (h : exec (.byteIn b) s = .next t) :
    (s.faState = .sCmd ∧ t = { s with
      faState := .sAttr, faCount := 1, buf := Memory.write s.buf 0 b, rx := .needMore, tx := .none, diag := 0 }) ∨
    (s.faState = .sAttr ∧ t = { s with
      faState := .sPayload, faCount := 2, faLen := framelen b, buf := Memory.write s.buf 1 b, rx := .needMore
      tx := .none, diag := 0 }) ∨
    (s.faState = .sPayload ∧ s.faCount.toNat < 18 ∧ s.faCount.toNat + 1 ≠ s.faLen.toNat ∧ t = { s with
      faCount := s.faCount + 1, buf := Memory.write s.buf s.faCount.toNat b, rx := .needMore, tx := .none
      diag := 0 }) ∨
    (s.faState = .sPayload ∧ s.faCount.toNat < 18 ∧ s.faCount.toNat + 1 = s.faLen.toNat ∧
      ∃ f, t = s.dropFrame.present f (classify s.registry f)) := by
  change execByteIn b s = _ at h
  cases hs : s.faState with
  | sCmd =>
    rw [execByteIn_sCmd hs] at h
    cases h
    exact .inl ⟨rfl, rfl⟩
  | sAttr =>
    rw [execByteIn_sAttr hs] at h
    cases h
    exact .inr (.inl ⟨rfl, rfl⟩)
  | sPayload =>
    by_cases hc : s.faCount.toNat < 18
    · by_cases he : s.faCount.toNat + 1 = s.faLen.toNat
      · rw [execByteIn_sPayload_last hs hc he] at h
        unfold completeFrame at h
        split at h
        · cases h
        · next held _ =>
          unfold classifyInto at h
          split at h
          · cases h
            exact .inr (.inr (.inr ⟨rfl, hc, he, held ++ [b], rfl⟩))
          · cases h
      · rw [execByteIn_sPayload_more hs hc he] at h
        cases h
        exact .inr (.inr (.inl ⟨rfl, hc, he, by rw [← hs]⟩))
    · rw [execByteIn_sPayload_full hs (by omega)] at h
      cases h

/-- Everything SOURCE_CLOSED can do. -/
theorem execSourceClosed_cases {s t : State} (h : exec .sourceClosed s = .next t) :
    (s.faState = .sCmd ∧ t = s.presentRx .none 0) ∨
      (s.faState ≠ .sCmd ∧ t = s.dropFrame.presentRx (.framingError s.faCount) 0) := by
  simp only [exec, execSourceClosed] at h
  split at h <;> cases h <;> simp_all

/-- What an instruction can be: an event of the receive path, NOP, a row of the encoders, ENCODE, an illegal event's
row, or a decode row. -/
theorem instr_cases (i : Instr) :
    (∃ b, i = .byteIn b) ∨ i = .sourceClosed ∨ i = .cancel ∨ i = .nop ∨ (∃ k, i = encRow k) ∨
      (∃ kind, i = .encode kind) ∨ reserved i ∨ ∃ k f, i = decodeRow k f := by
  have enc : ∀ k, (∃ b, encRow k = .byteIn b) ∨ encRow k = .sourceClosed ∨ encRow k = .cancel ∨ encRow k = .nop ∨
      (∃ k', encRow k = encRow k') ∨ (∃ kind, encRow k = .encode kind) ∨ reserved (encRow k) ∨
      ∃ k' f, encRow k = decodeRow k' f := fun k => .inr (.inr (.inr (.inr (.inl ⟨k, rfl⟩))))
  have dec : ∀ k f, (∃ b, decodeRow k f = .byteIn b) ∨ decodeRow k f = .sourceClosed ∨ decodeRow k f = .cancel ∨
      decodeRow k f = .nop ∨ (∃ k', decodeRow k f = encRow k') ∨ (∃ kind, decodeRow k f = .encode kind) ∨
      reserved (decodeRow k f) ∨ ∃ k' f', decodeRow k f = decodeRow k' f' :=
    fun k f => .inr (.inr (.inr (.inr (.inr (.inr (.inr ⟨k, f, rfl⟩))))))
  cases i with
  | nop => simp
  | byteIn => simp
  | sourceClosed => simp
  | cancel => simp
  | encode => simp
  | decodeHeadingCourse f => exact dec .headingCourse f
  | decodeWindAngle f => exact dec .windAngle f
  | decodeWindSpeed f => exact dec .windSpeed f
  | decodeKeystroke f => exact dec .keystroke f
  | decodeWaypointName f => exact dec .waypointName f
  | decodeNavToWaypoint f => exact dec .navToWaypoint f
  | decodeCalibration f => exact dec .calibration f
  | decodeDeadband f => exact dec .deadband f
  | decodeLamp f => exact dec .lamp f
  | decodeStw f => exact dec .stw f
  | decodeCcWarnings f => exact dec .ccWarnings f
  | decodeApWindStatus f => exact dec .apWindStatus f
  | encHeadingCourse => exact enc .headingCourse
  | encWindAngle => exact enc .windAngle
  | encWindSpeed => exact enc .windSpeed
  | encKeystroke => exact enc .keystroke
  | encWaypointName => exact enc .waypointName
  | encNavToWaypoint => exact enc .navToWaypoint
  | encCalibration => exact enc .calibration
  | encDeadband => exact enc .deadband
  | encLamp => exact enc .lamp
  | encStw => exact enc .stw
  | encCcWarnings => exact enc .ccWarnings
  | encApWindStatus => exact enc .apWindStatus
  | illegalOp5 k d => exact .inr (.inr (.inr (.inr (.inr (.inr (.inl ⟨k, d, by simp⟩))))))
  | illegalOp6 k d => exact .inr (.inr (.inr (.inr (.inr (.inr (.inl ⟨k, d, by simp⟩))))))
  | illegalOp7 k d => exact .inr (.inr (.inr (.inr (.inr (.inr (.inl ⟨k, d, by simp⟩))))))
  | illegalOp8 k d => exact .inr (.inr (.inr (.inr (.inr (.inr (.inl ⟨k, d, by simp⟩))))))
  | illegalOp9 k d => exact .inr (.inr (.inr (.inr (.inr (.inr (.inl ⟨k, d, by simp⟩))))))
  | illegalOpA k d => exact .inr (.inr (.inr (.inr (.inr (.inr (.inl ⟨k, d, by simp⟩))))))
  | illegalOpB k d => exact .inr (.inr (.inr (.inr (.inr (.inr (.inl ⟨k, d, by simp⟩))))))
  | illegalOpC k d => exact .inr (.inr (.inr (.inr (.inr (.inr (.inl ⟨k, d, by simp⟩))))))
  | illegalOpD k d => exact .inr (.inr (.inr (.inr (.inr (.inr (.inl ⟨k, d, by simp⟩))))))
  | illegalOpE k d => exact .inr (.inr (.inr (.inr (.inr (.inr (.inl ⟨k, d, by simp⟩))))))
  | illegalOpF k d => exact .inr (.inr (.inr (.inr (.inr (.inr (.inl ⟨k, d, by simp⟩))))))

/-- Everything an instruction can do when it answers a next state: an event of the receive path (which have their own
lemmas), NOP, an encoder's answer, an illegal event, or a classification. -/
theorem exec_cases {i : Instr} {s t : State} (h : exec i s = .next t) :
    (∃ b, i = .byteIn b) ∨ i = .sourceClosed ∨ i = .cancel ∨ (i = .nop ∧ t = s.presentRx .none 0) ∨
      (∃ k, (i = encRow k ∨ ∃ kind, i = .encode kind ∧ Kind.ofId kind = some k) ∧
        t = s.presentTx (encodeKind s.registry k s.opnd)) ∨
      ((reserved i ∨ ∃ kind, i = .encode kind ∧ 12 ≤ kind.toNat) ∧ t = s.illegalEvent) ∨
      ∃ k f, i = decodeRow k f ∧ t = s.present f (classifyAmong s.registry (Kind.fromOn k) f) := by
  rcases instr_cases i with hi | rfl | rfl | rfl | ⟨k, rfl⟩ | ⟨kind, rfl⟩ | hi | ⟨k, f, rfl⟩
  · exact .inl hi
  · exact .inr (.inl rfl)
  · exact .inr (.inr (.inl rfl))
  · cases h
    exact .inr (.inr (.inr (.inl ⟨rfl, rfl⟩)))
  · rw [exec_encRow] at h
    cases h
    exact .inr (.inr (.inr (.inr (.inl ⟨k, .inl rfl, rfl⟩))))
  · rcases Kind.ofId_cases kind with ⟨k, hk, -⟩ | ⟨hk, hlt⟩
    · simp only [exec, execEncode, hk] at h
      cases h
      exact .inr (.inr (.inr (.inr (.inl ⟨k, .inr ⟨kind, rfl, hk⟩, rfl⟩))))
    · simp only [exec, execEncode, hk] at h
      cases h
      exact .inr (.inr (.inr (.inr (.inr (.inl ⟨.inr ⟨kind, rfl, hlt⟩, rfl⟩)))))
  · rw [exec_of_reserved hi] at h
    cases h
    exact .inr (.inr (.inr (.inr (.inr (.inl ⟨.inl hi, rfl⟩)))))
  · rw [exec_decodeRow] at h
    unfold classifyInto at h
    split at h
    · cases h
      exact .inr (.inr (.inr (.inr (.inr (.inr ⟨k, f, rfl, rfl⟩)))))
    · cases h

/-- Everything a step can do when it answers a next state. -/
theorem step_cases {s t : State} (h : step s = .next t) : s.registry.legal = true ∧
    ((s.input = [] ∧ t = s) ∨ ∃ p rest, s.input = p :: rest ∧
      ((p.rst = true ∧ t = State.applyReset { s with input := rest }) ∨
        (p.rst = false ∧ runEvent p.ev { s with input := rest, opnd := p.opnd } = .next t))) := by
  unfold step fetchAndRun at h
  split at h
  · next hl =>
    refine ⟨hl, ?_⟩
    cases hi : s.input with
    | nil =>
      simp only [State.take, hi] at h
      cases h
      exact .inl ⟨rfl, rfl⟩
    | cons p rest =>
      refine .inr ⟨p, rest, rfl, ?_⟩
      cases hr : p.rst <;> simp [State.take, hi, hr] at h
      · exact .inr ⟨rfl, h⟩
      · exact .inl ⟨rfl, h.symm⟩
  · cases h

/-- An event word is illegal or runs as its instruction. -/
theorem runEvent_cases {e : EventWord} {s t : State} (h : runEvent e s = .next t) :
    ((∃ x, decodeEvent e = .error x) ∧ t = s.illegalEvent) ∨ ∃ i, decodeEvent e = .ok i ∧ exec i s = .next t := by
  unfold runEvent at h
  split at h
  · next x hx =>
    cases h
    exact .inl ⟨⟨x, hx⟩, rfl⟩
  · next i hi => exact .inr ⟨i, hi, h⟩

end Sys2Proof.Machine
end

