-- ==== Sys2Proof/Tests/Slice0.lean ====
section
/-! SUPPORT. The model's own tests: ill-formed terms refused, words written out from the encodings, one step per instruction on the vectors of spec/95_test_vectors.md, and a witness for every obligation that has hypotheses. -/

open Sys2Proof Sys2Proof.Machine Sys2Proof.Claims

namespace Sys2Proof.Tests

/-- Reset, with an event word waiting and an operand record on its port. -/
def presented (e : EventWord) (o : Opnd) : State := { State.reset with input := [⟨false, e, o⟩] }

/-- An operand record with zero beside the named fields of the tests. -/
def operands (heading : BitVec 9) (courseHalf : BitVec 10) : Opnd :=
  { Opnd.zero with heading := heading, courseHalf := courseHalf }

/-- A partial frame held in S_PAYLOAD. -/
def holding (held : List Byte) (length : BitVec 5) : State :=
  { State.reset with
    faState := .sPayload
    faCount := BitVec.ofNat 5 held.length
    faLen := length
    buf := (List.range held.length).zip held }

/-- Only a command byte held. -/
def holdingCommand (b : Byte) : State := { State.reset with faState := .sAttr, faCount := 1, buf := [(0, b)] }

/-- Presentations of a frame's bytes. -/
def bytesOf (f : Frame) : List Presentation := f.map fun b => ⟨false, eventWord 0x1 0 b, .zero⟩

/-- RX after an outcome that is a next state. -/
def rxOf : Host.Outcome State Fault Refusal → Option Rx
  | .next t => some t.rx
  | _ => none

/-- TX after an outcome that is a next state. -/
def txOf : Host.Outcome State Fault Refusal → Option Tx
  | .next t => some t.tx
  | _ => none

/-- FA_STATE and FA_COUNT after an outcome that is a next state. -/
def faOf : Host.Outcome State Fault Refusal → Option (FaState × BitVec 5)
  | .next t => some (t.faState, t.faCount)
  | _ => none

/-- FAULT after an outcome that is a next state. -/
def faultOf : Host.Outcome State Fault Refusal → Option FaultReg
  | .next t => some t.fault
  | _ => none

/-- The outcome is a next state. -/
def isNext : Host.Outcome State Fault Refusal → Bool
  | .next _ => true
  | _ => false

/-! ### WellFormed refuses -/

/-- ENCODE with a KIND an ENC row refines is not well-formed. -/
theorem test_wf_encode_kind : WellFormed defaultRegistry (.encode 9) = false := by decide

/-- A frame shorter than its attribute byte says is not well-formed. -/
theorem test_wf_frame_short : WellFormed defaultRegistry (.decodeStw [0x20, 0x01, 0x00]) = false := by decide

/-- A frame of another kind is not well-formed. -/
theorem test_wf_frame_kind : WellFormed defaultRegistry (.decodeLamp [0x20, 0x01, 0x00, 0x64]) = false := by decide

/-- A frame for which an earlier kind is a candidate is not well-formed as the later kind's. -/
theorem test_wf_frame_first :
    WellFormed { defaultRegistry with cmdCcWarnings := 0x11, lenCcWarnings := 3 } (.decodeApWindStatus [0x11, 0x00, 0x42])
      = false := by decide

/-! ### Words written out from the encodings (30_encoding.md R60, R64 to R73, R78 to R80) -/

/-- The five events; DATA is bits 15:8, KIND bits 7:4, OP bits 3:0. -/
theorem test_decode_events :
    decodeEvent 0b0000000000000000 = .ok .nop ∧
      decodeEvent 0b1111101000000001 = .ok (.byteIn 0xFA) ∧
      decodeEvent 0b0000000000000010 = .ok .sourceClosed ∧
      decodeEvent 0b0000000000000011 = .ok .cancel ∧
      decodeEvent 0b0000000011000100 = .ok (.encode 0xC) := by
  decide

/-- ENCODE with KIND 0 to 11. -/
theorem test_decode_encoders :
    decodeEvent 0b0000000000000100 = .ok .encHeadingCourse ∧
      decodeEvent 0b0000000000010100 = .ok .encWindAngle ∧
      decodeEvent 0b0000000000100100 = .ok .encWindSpeed ∧
      decodeEvent 0b0000000000110100 = .ok .encKeystroke ∧
      decodeEvent 0b0000000001000100 = .ok .encWaypointName ∧
      decodeEvent 0b0000000001010100 = .ok .encNavToWaypoint ∧
      decodeEvent 0b0000000001100100 = .ok .encCalibration ∧
      decodeEvent 0b0000000001110100 = .ok .encDeadband ∧
      decodeEvent 0b0000000010000100 = .ok .encLamp ∧
      decodeEvent 0b0000000010010100 = .ok .encStw ∧
      decodeEvent 0b0000000010100100 = .ok .encCcWarnings ∧
      decodeEvent 0b0000000010110100 = .ok .encApWindStatus := by
  decide

/-- The reserved OP codes, with KIND 0x9 and DATA 0xA5. -/
theorem test_decode_reserved :
    decodeEvent 0b1010010110010101 = .ok (.illegalOp5 0x9 0xA5) ∧
      decodeEvent 0b1010010110010110 = .ok (.illegalOp6 0x9 0xA5) ∧
      decodeEvent 0b1010010110010111 = .ok (.illegalOp7 0x9 0xA5) ∧
      decodeEvent 0b1010010110011000 = .ok (.illegalOp8 0x9 0xA5) ∧
      decodeEvent 0b1010010110011001 = .ok (.illegalOp9 0x9 0xA5) ∧
      decodeEvent 0b1010010110011010 = .ok (.illegalOpA 0x9 0xA5) ∧
      decodeEvent 0b1010010110011011 = .ok (.illegalOpB 0x9 0xA5) ∧
      decodeEvent 0b1010010110011100 = .ok (.illegalOpC 0x9 0xA5) ∧
      decodeEvent 0b1010010110011101 = .ok (.illegalOpD 0x9 0xA5) ∧
      decodeEvent 0b1010010110011110 = .ok (.illegalOpE 0x9 0xA5) ∧
      decodeEvent 0b1010010110011111 = .ok (.illegalOpF 0x9 0xA5) := by
  decide

/-- The illegal words that are no row: KIND or DATA not 0 (95_test_vectors.md X2, X3, X4, X6). -/
theorem test_decode_rejected :
    decodeEvent 0x0010 = .error .kindField ∧
      decodeEvent 0x2011 = .error .kindField ∧
      decodeEvent 0x0102 = .error .dataField ∧
      decodeEvent 0x0104 = .error .dataField := by
  decide

/-- The header of each kind's frame, bit by bit: the command byte, then the auxiliary and the length nibble. -/
theorem test_decode_frames :
    decodeFrame defaultRegistry [0b10000100, 0b01110110, 0b11101100, 0b10110011, 0, 0, 0, 0, 0] =
        .ok (.decodeHeadingCourse [0b10000100, 0b01110110, 0b11101100, 0b10110011, 0, 0, 0, 0, 0]) ∧
      decodeFrame defaultRegistry [0b00010000, 0b00000001, 0b00000000, 0b00001010] =
        .ok (.decodeWindAngle [0b00010000, 0b00000001, 0b00000000, 0b00001010]) ∧
      decodeFrame defaultRegistry [0b00010001, 0b00000001, 0b10000101, 0b00000011] =
        .ok (.decodeWindSpeed [0b00010001, 0b00000001, 0b10000101, 0b00000011]) ∧
      decodeFrame defaultRegistry [0b10000110, 0b00010001, 0b00000101, 0b11111010] =
        .ok (.decodeKeystroke [0b10000110, 0b00010001, 0b00000101, 0b11111010]) ∧
      decodeFrame defaultRegistry [0b10000010, 0b00000101, 0x91, 0x6E, 0x34, 0xCB, 0x51, 0xAE] =
        .ok (.decodeWaypointName [0b10000010, 0b00000101, 0x91, 0x6E, 0x34, 0xCB, 0x51, 0xAE]) ∧
      decodeFrame defaultRegistry [0b10000101, 0b01010110, 0x10, 0xA0, 0xB5, 0x07, 0x57, 0x00, 0xA8] =
        .ok (.decodeNavToWaypoint [0b10000101, 0b01010110, 0x10, 0xA0, 0xB5, 0x07, 0x57, 0x00, 0xA8]) ∧
      decodeFrame defaultRegistry [0b10001000, 0b00000011, 0x01, 0x02, 0x03, 0x04] =
        .ok (.decodeCalibration [0b10001000, 0b00000011, 0x01, 0x02, 0x03, 0x04]) ∧
      decodeFrame defaultRegistry [0b10000111, 0b00000000, 0x01] =
        .ok (.decodeDeadband [0b10000111, 0b00000000, 0x01]) ∧
      decodeFrame defaultRegistry [0b00110000, 0b11110000, 0x08] =
        .ok (.decodeLamp [0b00110000, 0b11110000, 0x08]) ∧
      decodeFrame defaultRegistry [0b00100000, 0b00010001, 0x00, 0x64] =
        .ok (.decodeStw [0b00100000, 0b00010001, 0x00, 0x64]) ∧
      decodeFrame defaultRegistry [0b10000011, 0b00000111, 1, 2, 3, 4, 5, 6, 7, 8] =
        .ok (.decodeCcWarnings [0b10000011, 0b00000111, 1, 2, 3, 4, 5, 6, 7, 8]) ∧
      decodeFrame defaultRegistry [0b00010001, 0b00000000, 0x42] =
        .ok (.decodeApWindStatus [0b00010001, 0b00000000, 0x42]) := by
  decide

/-- The table's numbering: the frame header H, or the event word (30_encoding.md R62, R70). -/
theorem test_decode_table_word :
    decodeTableWord 16 0x3000 = some (.decodeLamp [0x30, 0x00, 0x00]) ∧ decodeTableWord 16 0x0084 = some .encLamp ∧
      decodeTableWord 16 0x1_0000 = none := by
  decide

/-! ### One step per instruction -/

/-- F13: a NOP leaves the partial frame. -/
theorem test_nop :
    (rxOf (exec .nop (holding [0x20, 0x01] 4)), faOf (exec .nop (holding [0x20, 0x01] 4))) =
      (some .none, some (.sPayload, 2)) := by
  decide

/-- F2: the attribute byte. -/
theorem test_byte_in_attribute :
    faOf (exec (.byteIn 0x01) (holdingCommand 0x20)) = some (.sPayload, 2) := by
  decide

/-- F4, W1: the last byte of an STW frame. -/
theorem test_byte_in_completes :
    rxOf (exec (.byteIn 0x64) (holding [0x20, 0x01, 0x00] 4)) =
      some (.message (.stw 100 0) [0x20, 0x01, 0x00, 0x64]) := by
  decide

/-- D1: a command byte no kind has. -/
theorem test_byte_in_unknown :
    rxOf (exec (.byteIn 0x00) (holding [0x12, 0x01, 0x00] 4)) = some (.unknown [0x12, 0x01, 0x00, 0x00]) := by
  decide

/-- F9: three bytes discarded. -/
theorem test_source_closed :
    rxOf (exec .sourceClosed (holding [0x10, 0x01, 0x00] 4)) = some (.framingError 3) := by
  decide

/-- F7: closed at a frame boundary. -/
theorem test_source_closed_boundary :
    rxOf (exec .sourceClosed State.reset) = some .none := by
  decide

/-- F12: one byte discarded. -/
theorem test_cancel :
    (rxOf (exec .cancel (holdingCommand 0x30)), faOf (exec .cancel (holdingCommand 0x30))) =
      (some (.cancelled 1), some (.sCmd, 0)) := by
  decide

/-- X5: ENCODE with KIND 15. -/
theorem test_encode_illegal :
    faultOf (exec (.encode 0xF) State.reset) = some ⟨true, .illegalEvent⟩ := by
  decide

/-- H12: values outside the encoder's domain, and the tail. -/
theorem test_decode_row_heading_course :
    rxOf (exec (.decodeHeadingCourse [0x84, 0xF6, 0x3F, 0xFF, 0x01, 0x02, 0x03, 0x04, 0x05]) State.reset) =
      some (.message (.headingCourse 398 255 [0x01, 0x02, 0x03, 0x04, 0x05]) [0x84, 0xF6, 0x3F, 0xFF, 0x01, 0x02, 0x03, 0x04, 0x05]) := by
  decide

/-- H13: the other nibble for an odd heading. -/
theorem test_decode_row_heading_course_non_canonical :
    rxOf (exec (.decodeHeadingCourse [0x84, 0x86, 0x00, 0x00, 0x00, 0x00, 0x00, 0x00, 0x00]) State.reset) =
      some (.message (.headingCourse 1 0 [0, 0, 0, 0, 0]) [0x84, 0x86, 0x00, 0x00, 0x00, 0x00, 0x00, 0x00, 0x00]) := by
  decide

/-- A5: delivered as computed. -/
theorem test_decode_row_wind_angle :
    rxOf (exec (.decodeWindAngle [0x10, 0x01, 0xFF, 0xFF]) State.reset) =
      some (.message (.windAngle 65535 0) [0x10, 0x01, 0xFF, 0xFF]) := by
  decide

/-- S4: the unit bit and the greatest speed. -/
theorem test_decode_row_wind_speed :
    rxOf (exec (.decodeWindSpeed [0x11, 0x01, 0xFF, 0x09]) State.reset) =
      some (.message (.windSpeed true 1279 0) [0x11, 0x01, 0xFF, 0x09]) := by
  decide

/-- K1: the key code and the auxiliary nibble. -/
theorem test_decode_row_keystroke :
    rxOf (exec (.decodeKeystroke [0x86, 0x11, 0x05, 0xFA]) State.reset) =
      some (.message (.keystroke 0x05 1 []) [0x86, 0x11, 0x05, 0xFA]) := by
  decide

/-- P1: ABCD. -/
theorem test_decode_row_waypoint_name :
    rxOf (exec (.decodeWaypointName [0x82, 0x05, 0x91, 0x6E, 0x34, 0xCB, 0x51, 0xAE]) State.reset) =
      some (.message (.waypointName #v[0x41, 0x42, 0x43, 0x44] 0) [0x82, 0x05, 0x91, 0x6E, 0x34, 0xCB, 0x51, 0xAE]) := by
  decide

/-- N5: every field at its top, the flags 0. -/
theorem test_decode_row_nav_to_waypoint :
    rxOf (exec (.decodeNavToWaypoint [0x85, 0xF6, 0xFF, 0xFF, 0xFF, 0xFF, 0x00, 0xFF, 0xFF]) State.reset) =
      some (.message (.navToWaypoint ⟨4095, 795, 4095, false, false, false, false, false, false, 0, 3, 0xFF⟩) [0x85, 0xF6, 0xFF, 0xFF, 0xFF, 0xFF, 0x00, 0xFF, 0xFF]) := by
  decide

/-- R1: the raw payload. -/
theorem test_decode_row_calibration :
    rxOf (exec (.decodeCalibration [0x88, 0x03, 0x01, 0x02, 0x03, 0x04]) State.reset) =
      some (.message (.calibration 0 [0x01, 0x02, 0x03, 0x04]) [0x88, 0x03, 0x01, 0x02, 0x03, 0x04]) := by
  decide

/-- R2: the raw payload. -/
theorem test_decode_row_deadband :
    rxOf (exec (.decodeDeadband [0x87, 0x00, 0x01]) State.reset) =
      some (.message (.deadband 0 [0x01]) [0x87, 0x00, 0x01]) := by
  decide

/-- D8: level 2 with auxiliary nibble 15. -/
theorem test_decode_row_lamp :
    rxOf (exec (.decodeLamp [0x30, 0xF0, 0x08]) State.reset) =
      some (.message (.lamp 2 15) [0x30, 0xF0, 0x08]) := by
  decide

/-- T2: 65535 tenths. -/
theorem test_decode_row_stw :
    rxOf (exec (.decodeStw [0x20, 0x01, 0xFF, 0xFF]) State.reset) =
      some (.message (.stw 65535 0) [0x20, 0x01, 0xFF, 0xFF]) := by
  decide

/-- D4: the raw payload. -/
theorem test_decode_row_ap_wind_status :
    rxOf (exec (.decodeApWindStatus [0x11, 0x00, 0x42]) State.reset) =
      some (.message (.apWindStatus 0 [0x42]) [0x11, 0x00, 0x42]) := by
  decide

/-- S5: a tenths byte above 9. -/
theorem test_decode_row_wind_speed_malformed :
    rxOf (exec (.decodeWindSpeed [0x11, 0x01, 0x05, 0x0A]) State.reset) =
      some (.malformed [0x11, 0x01, 0x05, 0x0A]) := by
  decide

/-- K2: a flipped bit. -/
theorem test_decode_row_keystroke_malformed :
    rxOf (exec (.decodeKeystroke [0x86, 0x11, 0x05, 0xFB]) State.reset) =
      some (.malformed [0x86, 0x11, 0x05, 0xFB]) := by
  decide

/-- P7: a flipped bit. -/
theorem test_decode_row_waypoint_name_malformed :
    rxOf (exec (.decodeWaypointName [0x82, 0x05, 0x91, 0x6E, 0x34, 0xCB, 0x51, 0xAF]) State.reset) =
      some (.malformed [0x82, 0x05, 0x91, 0x6E, 0x34, 0xCB, 0x51, 0xAF]) := by
  decide

/-- N3: a wrong complement. -/
theorem test_decode_row_nav_to_waypoint_malformed :
    rxOf (exec (.decodeNavToWaypoint [0x85, 0x56, 0x10, 0xA0, 0xB5, 0x07, 0x57, 0x00, 0xA9]) State.reset) =
      some (.malformed [0x85, 0x56, 0x10, 0xA0, 0xB5, 0x07, 0x57, 0x00, 0xA9]) := by
  decide

/-- W4: 3 is no level. -/
theorem test_decode_row_lamp_malformed :
    rxOf (exec (.decodeLamp [0x30, 0x00, 0x03]) State.reset) =
      some (.malformed [0x30, 0x00, 0x03]) := by
  decide

/-- R193: the payload raw where the OPEN predicate holds, whatever it is. -/
theorem test_decode_row_cc_warnings :
    exec (.decodeCcWarnings [0x83, 0x07, 1, 2, 3, 4, 5, 6, 7, 8]) State.reset = .next { State.reset with
      rx := if Config.matchCcw [0x83, 0x07, 1, 2, 3, 4, 5, 6, 7, 8] then
          .message (.ccWarnings 0 [1, 2, 3, 4, 5, 6, 7, 8]) [0x83, 0x07, 1, 2, 3, 4, 5, 6, 7, 8]
        else .malformed [0x83, 0x07, 1, 2, 3, 4, 5, 6, 7, 8] } := by
  show Host.Outcome.next (State.present State.reset _ (if Config.matchCcw _ then _ else _)) = _
  split <;> rfl

/-- H2: the greatest values. -/
theorem test_enc_heading_course :
    txOf (exec .encHeadingCourse { State.reset with opnd := operands 359 719 }) =
      some (.frame [0x84, 0x76, 0xEC, 0xB3, 0x00, 0x00, 0x00, 0x00, 0x00]) := by
  decide

/-- H11: a course out of range. -/
theorem test_enc_heading_course_range :
    txOf (exec .encHeadingCourse { State.reset with opnd := operands 0 720 }) =
      some (.outOfRange) := by
  decide

/-- A3: the greatest angle. -/
theorem test_enc_wind_angle :
    txOf (exec .encWindAngle { State.reset with opnd.angleHalf := 719 }) =
      some (.frame [0x10, 0x01, 0x02, 0xCF]) := by
  decide

/-- A4: out of range. -/
theorem test_enc_wind_angle_range :
    txOf (exec .encWindAngle { State.reset with opnd.angleHalf := 720 }) =
      some (.outOfRange) := by
  decide

/-- S8: the greatest speed. -/
theorem test_enc_wind_speed :
    txOf (exec .encWindSpeed { State.reset with opnd.windTenths := 1279 }) =
      some (.frame [0x11, 0x01, 0x7F, 0x09]) := by
  decide

/-- S9: out of range. -/
theorem test_enc_wind_speed_range :
    txOf (exec .encWindSpeed { State.reset with opnd.windTenths := 1280 }) =
      some (.outOfRange) := by
  decide

/-- K5: key 0xFF with auxiliary nibble 15. -/
theorem test_enc_keystroke :
    txOf (exec .encKeystroke { State.reset with opnd.key := 0xFF, opnd.aux := 0xF }) =
      some (.frame [0x86, 0xF1, 0xFF, 0x00]) := by
  decide

/-- P5: o0z! becomes O0Z0. -/
theorem test_enc_waypoint_name :
    txOf (exec .encWaypointName { State.reset with opnd.nameLength := 4, opnd.chars := #v[0x6F, 0x30, 0x7A, 0x21] }) =
      some (.frame [0x82, 0x05, 0x1F, 0xE0, 0xA0, 0x5F, 0x02, 0xFD]) := by
  decide

/-- P3: AB with two slots padded. -/
theorem test_enc_waypoint_name_padded :
    txOf (exec .encWaypointName { State.reset with opnd.nameLength := 2, opnd.chars := #v[0x41, 0x42, 0x58, 0x58] }) =
      some (.frame [0x82, 0x05, 0x91, 0x6E, 0x04, 0xFB, 0x00, 0xFF]) := by
  decide

/-- N6: unsupported. -/
theorem test_enc_nav_to_waypoint :
    txOf (exec .encNavToWaypoint State.reset) =
      some (.unsupported) := by
  decide

/-- R4: unsupported. -/
theorem test_enc_calibration :
    txOf (exec .encCalibration State.reset) =
      some (.unsupported) := by
  decide

/-- R4: unsupported. -/
theorem test_enc_deadband :
    txOf (exec .encDeadband State.reset) =
      some (.unsupported) := by
  decide

/-- L1: level 3. -/
theorem test_enc_lamp :
    txOf (exec .encLamp { State.reset with opnd.level := 3 }) =
      some (.frame [0x30, 0x00, 0x0C]) := by
  decide

/-- L2: out of range. -/
theorem test_enc_lamp_range :
    txOf (exec .encLamp { State.reset with opnd.level := 4 }) =
      some (.outOfRange) := by
  decide

/-- T1: 65535 tenths. -/
theorem test_enc_stw :
    txOf (exec .encStw { State.reset with opnd.stwTenths := 65535 }) =
      some (.frame [0x20, 0x01, 0xFF, 0xFF]) := by
  decide

/-- R4: unsupported. -/
theorem test_enc_cc_warnings :
    txOf (exec .encCcWarnings State.reset) =
      some (.unsupported) := by
  decide

/-- R4: unsupported. -/
theorem test_enc_ap_wind_status :
    txOf (exec .encApWindStatus State.reset) =
      some (.unsupported) := by
  decide

/-- X1: each reserved OP raises the fault. -/
theorem test_reserved :
    [Instr.illegalOp5 0 0, .illegalOp6 0 0, .illegalOp7 0 0, .illegalOp8 0 0, .illegalOp9 0 0, .illegalOpA 0 0,
      .illegalOpB 0 0, .illegalOpC 0 0, .illegalOpD 0 0, .illegalOpE 0 0, .illegalOpF 0 0].all
      (fun i => decide (faultOf (exec i State.reset) = some ⟨true, .illegalEvent⟩)) = true := by
  decide

/-- F15: an ENCODE step between two bytes of a frame, from the event word on. -/
theorem test_step_encode :
    (txOf (step { holding [0x20, 0x01] 4 with input := [⟨false, 0x0094, { Opnd.zero with stwTenths := 1 }⟩] }),
      faOf (step { holding [0x20, 0x01] 4 with input := [⟨false, 0x0094, { Opnd.zero with stwTenths := 1 }⟩] })) =
      (some (.frame [0x20, 0x01, 0x00, 0x01]), some (.sPayload, 2)) := by
  decide

/-- F14: a reset drops the partial frame, whatever stands on `ev`. -/
theorem test_step_reset :
    faOf (step { holding [0x20, 0x01] 4 with input := [⟨true, 0x0001, .zero⟩] }) = some (.sCmd, 0) := by
  decide

/-- X3: an illegal word in a step. -/
theorem test_step_illegal :
    faultOf (step (presented 0x2011 .zero)) = some ⟨true, .illegalEvent⟩ := by
  decide

/-- The kernel runs a table word as the first instruction after reset (log 3, log 4). -/
theorem test_fetch_word :
    rxOf (step (State.reset.withFetchWord 16 0x3000)) = some (.message (.lamp 0 0) [0x30, 0x00, 0x00]) := by
  decide

/-- The fault of a byte that has no value, and of an index beyond a frame (R43). -/
theorem test_buf_faults :
    State.reset.bufRead 0 = .error .bufNoValue ∧ State.reset.bufWrite 18 0 = .error .bufAddress := ⟨rfl, rfl⟩

/-! ### Witnesses: the hypotheses of each obligation are met, each clause at a boundary -/

/-- The default registry is legal. -/
theorem default_legal : defaultRegistry.legal = true := by decide

/-- The fault register of a state that raised nothing. -/
theorem reset_faultInv : State.reset.faultInv := by decide

/-- The invariant of a state whose presentations alone differ from reset's. -/
theorem inv_boundary (ps : List Presentation) : ({ State.reset with input := ps } : State).Inv :=
  ⟨default_legal, rfl, rfl, by simp [State.lengthInv, State.reset], reset_faultInv, trivial, trivial⟩

/-- The invariant of a state that holds a command byte. -/
theorem inv_holdingCommand (b : Byte) : (holdingCommand b).Inv :=
  ⟨default_legal, rfl, rfl, by simp [State.lengthInv, holdingCommand], reset_faultInv, trivial, trivial⟩

/-- The invariant of a state that holds part of a frame. -/
theorem inv_holding {c a : Byte} {more : List Byte} (h : more.length + 2 < a.toNat % 16 + 3) :
    (holding (c :: a :: more) (framelen a)).Inv := by
  have hc : (BitVec.ofNat 5 (more.length + 2)).toNat = more.length + 2 := by
    rw [BitVec.toNat_ofNat]
    omega
  refine ⟨default_legal, ?_, ?_, fun _ => ⟨a, ?_, rfl⟩, reset_faultInv, trivial, trivial⟩
  · simp only [State.countInv, holding, List.length_cons, hc, framelen_toNat]
    omega
  · simp only [State.bufInv, holding, List.length_cons, hc]
    exact List.map_fst_zip (by simp)
  · simp [holding, List.range_succ_eq_map, Memory.read]

theorem witness_DecodeEncodeAgree :
    WellFormed defaultRegistry (.encode 12) = true ∧ WellFormed defaultRegistry (.encode 15) = true ∧
      WellFormed defaultRegistry (.decodeStw [0x20, 0xF1, 0x00, 0x64]) = true := by
  decide

theorem witness_DecodedCodesAreEncodings :
    decode defaultRegistry (.event 0x00B4) = .ok .encApWindStatus ∧
      decode defaultRegistry (.frame [0x30, 0x00, 0x04]) = .ok (.decodeLamp [0x30, 0x00, 0x04]) := by
  decide

theorem witness_CandidacyIsSelectionWordTest :
    defaultRegistry.legal = true ∧ wholeFrame [0x30, 0xF0, 0x04] = true ∧
      defaultRegistry.isCandidate [0x30, 0xF0, 0x04] .lamp = true ∧
      defaultRegistry.isCandidate [0x30, 0xF0, 0x04] .stw = false := by
  decide

/-- Illegal words at the edge of each clause, and legal words beside them. -/
theorem witness_IllegalWordsRaiseTheFault :
    State.reset.registry.legal = true ∧ (illegalWord 0x0005 ∧ illegalWord 0x0010 ∧ illegalWord 0x00C4 ∧ illegalWord 0x0100) ∧
      (¬ illegalWord 0x0000 ∧ ¬ illegalWord 0x00B4 ∧ ¬ illegalWord 0xFF01) ∧
      (presented 0x00B4 .zero).input = [⟨false, 0x00B4, .zero⟩] ∧ isNext (step (presented 0x00B4 .zero)) = true := by
  unfold illegalWord
  refine ⟨?_, ⟨?_, ?_, ?_, ?_⟩, ⟨?_, ?_, ?_⟩, ?_, ?_⟩ <;> decide

theorem witness_StepRunsDecodedEvent :
    (presented 0xFF01 .zero).registry.legal = true ∧ (presented 0xFF01 .zero).input = [⟨false, 0xFF01, .zero⟩] ∧
      decodeEvent 0xFF01 = .ok (.byteIn 0xFF) := by
  decide

/-- Both clauses: a frame that is an instruction, and one that is none. -/
theorem witness_CompletingByteRunsDecodeRow :
    (holding [0x30, 0x00] (framelen 0x00)).Inv ∧ decodeFrame defaultRegistry [0x30, 0x00, 0x0C] = .ok (.decodeLamp [0x30, 0x00, 0x0C]) ∧
      (holding [0x31, 0x00] (framelen 0x00)).Inv ∧ decodeFrame defaultRegistry [0x31, 0x00, 0x0C] = .error .noCandidate ∧
      (holding [0x30, 0x00] (framelen 0x00)).faCount.toNat + 1 = (holding [0x30, 0x00] (framelen 0x00)).faLen.toNat :=
  ⟨inv_holding (by decide), by decide, inv_holding (by decide), by decide, by decide⟩

theorem witness_ResetStepGivesResetValues :
    ({ State.reset with input := [⟨true, 0x0001, .zero⟩] } : State).registry.legal = true := by
  decide

theorem witness_NothingPresentedHoldsTheState : State.reset.registry.legal = true ∧ State.reset.input = [] := by decide

/-- One registry for each clause, one off the limit. -/
theorem witness_IllegalRegistryIsRefused :
    ({ defaultRegistry with lenHeadingCourse := 3 } : Registry).lenHeadingCourse < 4 ∧
      ({ defaultRegistry with lenKeystroke := 3 } : Registry).lenKeystroke < 4 ∧
      ({ defaultRegistry with lenNavToWaypoint := 8 } : Registry).lenNavToWaypoint ≠ 9 ∧
      ({ defaultRegistry with lenCalibration := 2 } : Registry).len .calibration < 3 ∧
      18 < ({ defaultRegistry with lenDeadband := 19 } : Registry).len .deadband := by
  decide

/-- Each state of the Frame Assembler: S_CMD, S_ATTR, a frame that goes on, the shortest and the longest frame's last
byte. -/
theorem witness_ByteInAssemblesFrames :
    ({ State.reset with input := [] } : State).Inv ∧ (holdingCommand 0x30).Inv ∧
      (holding [0x20, 0x01] (framelen 0x01)).Inv ∧ (holding [0x30, 0x00] (framelen 0x00)).Inv ∧
      (holding [0x99, 0x0F, 0, 0, 0, 0, 0, 0, 0, 0, 0, 0, 0, 0, 0, 0, 0] (framelen 0x0F)).Inv :=
  ⟨inv_boundary [], inv_holdingCommand _, inv_holding (by decide), inv_holding (by decide), inv_holding (by decide)⟩

/-- S_CMD, S_ATTR, and S_PAYLOAD with the fewest and the most bytes. -/
theorem witness_SourceClosedDropsPartialFrame :
    State.reset.faState = .sCmd ∧ ((holdingCommand 0x30).faState ≠ .sCmd ∧ (holdingCommand 0x30).countInv) ∧
      (holding [0x20, 0x01] (framelen 0x01)).countInv ∧
      (holding [0x99, 0x0F, 0, 0, 0, 0, 0, 0, 0, 0, 0, 0, 0, 0, 0, 0, 0] (framelen 0x0F)).countInv :=
  ⟨rfl, ⟨by decide, rfl⟩, (inv_holding (by decide)).count, (inv_holding (by decide)).count⟩

theorem witness_CancelDropsPartialFrame : State.reset.countInv ∧ State.reset.faState = .sCmd := ⟨rfl, rfl⟩

theorem witness_FrameFedByteByByteIsClassified :
    ({ State.reset with input := bytesOf [0x30, 0x00, 0x03] } : State).Inv ∧ wholeFrame [0x30, 0x00, 0x03] = true ∧
      deliver [0x30, 0x00, 0x03] (bytesOf [0x30, 0x00, 0x03]) :=
  ⟨inv_boundary _, by decide, rfl, by simp [bytesOf]⟩

/-- A completing byte, from any state that holds all but one byte of a frame. -/
theorem completes_of_holding (c a b : Byte) (more held : List Byte) {t : State}
    (h : more.length + 2 < a.toNat % 16 + 3)
    (hc : (holding (c :: a :: more) (framelen a)).faCount.toNat + 1 = (holding (c :: a :: more) (framelen a)).faLen.toNat)
    (hr : (holding (c :: a :: more) (framelen a)).bufReadPrefix (holding (c :: a :: more) (framelen a)).faCount.toNat =
      .ok held)
    (ht : exec (.byteIn b) (holding (c :: a :: more) (framelen a)) = .next t) :
    completes (holding (c :: a :: more) (framelen a)) t b (held ++ [b]) :=
  ⟨inv_holding h, rfl, hc, ⟨held, hr, rfl⟩, ht⟩

/-- A first candidate that matches. -/
theorem witness_FirstMatchingCandidateWins :
    (∃ t, completes (holding [0x30, 0x00] (framelen 0x00)) t 0x0C [0x30, 0x00, 0x0C]) ∧
      (∀ j, j.id < Kind.lamp.id → [0x30, 0x00, 0x0C].head? = some (defaultRegistry.cmd j) →
        [0x30, 0x00, 0x0C].length = defaultRegistry.len j → matchKind defaultRegistry j [0x30, 0x00, 0x0C] = false) ∧
      matchKind defaultRegistry .lamp [0x30, 0x00, 0x0C] = true := by
  refine ⟨⟨_, completes_of_holding 0x30 0x00 0x0C [] [0x30, 0x00] (by decide) (by decide) rfl rfl⟩, ?_, by decide⟩
  intro j
  cases j <;> decide

/-- Both sides of the equivalence. -/
theorem witness_UnknownExactlyWithoutCandidates :
    (∃ t, completes (holding [0x31, 0x00] (framelen 0x00)) t 0x0C [0x31, 0x00, 0x0C] ∧
      t.rx = .unknown [0x31, 0x00, 0x0C]) ∧
      ∃ t, completes (holding [0x30, 0x00] (framelen 0x00)) t 0x0C [0x30, 0x00, 0x0C] ∧
        t.rx ≠ .unknown [0x30, 0x00, 0x0C] :=
  ⟨⟨_, completes_of_holding 0x31 0x00 0x0C [] [0x31, 0x00] (by decide) (by decide) rfl rfl, by decide⟩,
    ⟨_, completes_of_holding 0x30 0x00 0x0C [] [0x30, 0x00] (by decide) (by decide) rfl rfl, by decide⟩⟩

/-- Both sides of the equivalence. -/
theorem witness_MalformedExactlyWhenNoneMatches :
    (∃ t, completes (holding [0x30, 0x00] (framelen 0x00)) t 0x03 [0x30, 0x00, 0x03] ∧
      t.rx = .malformed [0x30, 0x00, 0x03]) ∧
      ∃ t, completes (holding [0x30, 0x00] (framelen 0x00)) t 0x0C [0x30, 0x00, 0x0C] ∧
        t.rx ≠ .malformed [0x30, 0x00, 0x0C] :=
  ⟨⟨_, completes_of_holding 0x30 0x00 0x03 [] [0x30, 0x00] (by decide) (by decide) rfl rfl, by decide⟩,
    ⟨_, completes_of_holding 0x30 0x00 0x0C [] [0x30, 0x00] (by decide) (by decide) rfl rfl, by decide⟩⟩

/-- The default registry with CALIBRATION on the lamp's command byte and length. -/
def collidingRegistry : Registry := { defaultRegistry with cmdCalibration := 0x30, lenCalibration := 3 }

/-- R127's obligation is one: a legal registry can break it. -/
theorem test_colliding_registry_is_ambiguous : collidingRegistry.legal = true ∧ ¬ collidingRegistry.unambiguous :=
  ⟨by decide, fun h => h .calibration .lamp [0x30, 0x00, 0x04] (by decide) (by decide) (by decide) (by decide) (by decide)⟩

/-- A frame that two candidates match, whose lower kind id has no matching candidate before it; and, for the last clause,
a frame under the default registry, no two kinds of which collide. -/
theorem witness_DisambiguationProperty :
    (∃ t, completes { holding [0x30, 0x00] (framelen 0x00) with registry := collidingRegistry } t 0x04
        [0x30, 0x00, 0x04] ∧ t.rx = .message (.calibration 0 [0x04]) [0x30, 0x00, 0x04]) ∧
      (Kind.calibration.id < Kind.lamp.id ∧ collidingRegistry.isCandidate [0x30, 0x00, 0x04] .calibration = true ∧
        collidingRegistry.isCandidate [0x30, 0x00, 0x04] .lamp = true ∧
        matchKind collidingRegistry .calibration [0x30, 0x00, 0x04] = true ∧
        matchKind collidingRegistry .lamp [0x30, 0x00, 0x04] = true) ∧
      (∀ h, h.id < Kind.calibration.id → collidingRegistry.isCandidate [0x30, 0x00, 0x04] h = true →
        matchKind collidingRegistry h [0x30, 0x00, 0x04] = false) ∧
      (∀ i j : Kind, i.id < j.id → defaultRegistry.cmd i = defaultRegistry.cmd j →
        defaultRegistry.len i ≠ defaultRegistry.len j) ∧
      (∃ t, completes (holding [0x30, 0x00] (framelen 0x00)) t 0x0C [0x30, 0x00, 0x0C]) ∧
      defaultRegistry.isCandidate [0x30, 0x00, 0x0C] .lamp = true ∧
      matchKind defaultRegistry .lamp [0x30, 0x00, 0x0C] = true ∧ defaultRegistry.unambiguous := by
  have none_collide : ∀ i j : Kind, i.id < j.id → defaultRegistry.cmd i = defaultRegistry.cmd j →
      defaultRegistry.len i ≠ defaultRegistry.len j := by
    intro i j
    cases i <;> cases j <;> decide
  have hi : (holding [0x30, 0x00] (framelen 0x00)).Inv := inv_holding (by decide)
  refine ⟨⟨_, ⟨⟨by decide, hi.count, hi.buf, hi.length, hi.fault, hi.rx, hi.tx⟩, rfl, by decide, ⟨_, rfl, rfl⟩, rfl⟩,
    by decide⟩, by decide, fun h => ?_, none_collide,
    ⟨_, completes_of_holding 0x30 0x00 0x0C [] [0x30, 0x00] (by decide) (by decide) rfl rfl⟩, by decide, by decide, ?_⟩
  · cases h <;> decide
  · intro i j f _ hij hci hcj
    exact absurd (Registry.isCandidate_collide hci hcj).2 (none_collide i j hij (Registry.isCandidate_collide hci hcj).1)

theorem witness_DecodeRowsNeverStop : State.reset.registry.legal = true := by decide

theorem witness_DecodeRowWithoutMatchIsMalformed :
    State.reset.registry.isCandidate [0x30, 0x00, 0x03] .lamp = true ∧
      ∀ j, Kind.lamp.id ≤ j.id → State.reset.registry.isCandidate [0x30, 0x00, 0x03] j = true →
        matchKind State.reset.registry j [0x30, 0x00, 0x03] = false := by
  refine ⟨by decide, fun j => ?_⟩
  cases j <;> decide

/-- The hypotheses of the statements on one kind's frames: the default registry is legal and has these lengths; the
shortest legal frames beside them. -/
theorem witness_DecodeHeadingCourseDelivers :
    State.reset.registry.legal = true ∧ [0, 0, 0, 0, 0].length + 4 = State.reset.registry.lenHeadingCourse ∧
      ({ defaultRegistry with lenHeadingCourse := 4 } : Registry).legal = true := by
  decide

theorem witness_DecodeWindAngleDelivers : State.reset.registry.legal = true := by decide

/-- Both clauses at their limit: the tenths bytes 9 and 10. -/
theorem witness_DecodeWindSpeedDelivers :
    (State.reset.registry.legal = true ∧ (9 : Byte).toNat ≤ 9) ∧ 9 < (10 : Byte).toNat ∧
      (∃ t, completes (holding [0x11, 0x01, 0x05] (framelen 0x01)) t 10 [0x11, 0x01, 0x05, 10]) ∧
      noOtherMatches defaultRegistry .windSpeed [0x11, 0x01, 0x05, 10] := by
  refine ⟨by decide, by decide,
    ⟨_, completes_of_holding 0x11 0x01 10 [0x05] [0x11, 0x01, 0x05] (by decide) (by decide) rfl rfl⟩, fun j => ?_⟩
  cases j <;> decide

theorem witness_DecodeKeystrokeDelivers :
    State.reset.registry.legal = true ∧ ([] : List Byte).length + 4 = State.reset.registry.lenKeystroke ∧
      ({ defaultRegistry with lenKeystroke := 18 } : Registry).legal = true := by
  decide

theorem witness_DecodeWaypointNameDelivers : State.reset.registry.legal = true := by decide

/-- Both clauses; the final byte of the second is one bit off the complement (95_test_vectors.md N3). -/
theorem witness_DecodeNavToWaypointDelivers :
    (State.reset.registry.legal = true ∧ State.reset.registry.nav = defaultNavLayout) ∧ (0xA9 : Byte) ≠ ~~~0x57 ∧
      0x85 = State.reset.registry.cmdNavToWaypoint ∧
      (∃ t, completes (holding [0x85, 0x56, 0x10, 0xA0, 0xB5, 0x07, 0x57, 0x00] (framelen 0x56)) t 0xA9
        [0x85, 0x56, 0x10, 0xA0, 0xB5, 0x07, 0x57, 0x00, 0xA9]) ∧
      noOtherMatches defaultRegistry .navToWaypoint [0x85, 0x56, 0x10, 0xA0, 0xB5, 0x07, 0x57, 0x00, 0xA9] := by
  refine ⟨by decide, by decide, by decide,
    ⟨_, completes_of_holding 0x85 0x56 0xA9 [0x10, 0xA0, 0xB5, 0x07, 0x57, 0x00]
      [0x85, 0x56, 0x10, 0xA0, 0xB5, 0x07, 0x57, 0x00] (by decide) (by decide) rfl rfl⟩, fun j => ?_⟩
  cases j <;> decide

/-- The default parameters, and each of the four delivering clauses. -/
theorem witness_RawPayloadKindsDeliver :
    (State.reset.registry.matchCal = .always ∧ State.reset.registry.matchDeadband = .always ∧
      State.reset.registry.matchApws = .always) ∧
    ([State.reset.registry.cmdCalibration, 0x03, 1, 2, 3, 4].length = State.reset.registry.lenCalibration ∧
      matchKind State.reset.registry .calibration [State.reset.registry.cmdCalibration, 0x03, 1, 2, 3, 4] = true) ∧
    ([State.reset.registry.cmdDeadband, 0x00, 1].length = State.reset.registry.lenDeadband ∧
      matchKind State.reset.registry .deadband [State.reset.registry.cmdDeadband, 0x00, 1] = true) ∧
    ([State.reset.registry.cmdCcWarnings, 0x07, 1, 2, 3, 4, 5, 6, 7, 8].length = State.reset.registry.lenCcWarnings ∧
      State.reset.registry.isCandidate [State.reset.registry.cmdCcWarnings, 0x07, 1, 2, 3, 4, 5, 6, 7, 8]
        .apWindStatus = false) ∧
    matchKind State.reset.registry .apWindStatus [0x11, 0x00, 0x42] = true := by
  decide

/-- The second clause: a byte that is no level, and no later candidate. -/
theorem witness_DecodeLampDelivers :
    State.reset.registry.legal = true ∧ (3 : Byte).toNat ∉ [0, 4, 8, 12] ∧ (16 : Byte).toNat ∉ [0, 4, 8, 12] ∧
      ∀ j, 8 < j.id → State.reset.registry.isCandidate [0x30, 0x00, 0x10] j = true →
        matchKind State.reset.registry j [0x30, 0x00, 0x10] = false := by
  refine ⟨by decide, by decide, by decide, fun j => ?_⟩
  cases j <;> decide

theorem witness_DecodeStwDelivers : State.reset.registry.legal = true := by decide

/-- A keystroke frame and a waypoint frame that match, and the first and the last byte replaced. -/
theorem witness_ComplementChecksReject :
    matchKeystroke ([0x86, 0x01] ++ [0x00, 0xFF]) = true ∧
      matchWaypointName [0x82, 0x05, 0x91, 0x6E, 0x34, 0xCB, 0x51, 0xAE] = true ∧
      matchWaypointName ([0x82, 0x05, 0x91, 0x6E, 0x34, 0xCB, 0x51, 0xAE].set 2 0x90) = false ∧
      matchWaypointName ([0x82, 0x05, 0x91, 0x6E, 0x34, 0xCB, 0x51, 0xAE].set 7 0xAF) = false := by
  decide

/-- Both clauses at their limits. -/
theorem witness_EncHeadingCourseAnswers :
    State.reset.registry.legal = true ∧ 359 < (operands 360 0).heading.toNat ∧ 719 < (operands 0 720).courseHalf.toNat ∧
      (operands 359 719).heading.toNat ≤ 359 ∧ (operands 359 719).courseHalf.toNat ≤ 719 := by
  decide

/-- Both clauses at their limits. -/
theorem witness_EncWindAngleAnswers :
    719 < ({ State.reset with opnd.angleHalf := 720 } : State).opnd.angleHalf.toNat ∧
      ({ State.reset with opnd.angleHalf := 719 } : State).opnd.angleHalf.toNat ≤ 719 := by
  decide

/-- Both clauses at their limits. -/
theorem witness_EncWindSpeedAnswers :
    1279 < ({ State.reset with opnd.windTenths := 1280 } : State).opnd.windTenths.toNat ∧
      ({ State.reset with opnd.windTenths := 1279 } : State).opnd.windTenths.toNat ≤ 1279 := by
  decide

theorem witness_EncKeystrokeAnswers : State.reset.registry.legal = true := by decide

/-- Both clauses at their limits. -/
theorem witness_EncWaypointNameAnswers :
    4 < ({ State.reset with opnd.nameLength := 5 } : State).opnd.nameLength.toNat ∧
      ({ State.reset with opnd.nameLength := 4 } : State).opnd.nameLength.toNat ≤ 4 := by
  decide

/-- Both clauses at their limits. -/
theorem witness_EncLampAnswers :
    3 < ({ State.reset with opnd.level := 4 } : State).opnd.level.toNat ∧
      ({ State.reset with opnd.level := 3 } : State).opnd.level.toNat ≤ 3 := by
  decide

/-- A reserved row, and the KIND values at the limits. -/
theorem witness_ReservedRowsRaiseTheFault :
    reserved (.illegalOp5 0 0) ∧ reserved (.illegalOpF 0xF 0xFF) ∧ 12 ≤ (12 : Nibble).toNat ∧ 12 ≤ (15 : Nibble).toNat :=
  ⟨⟨0, 0, by decide⟩, ⟨0xF, 0xFF, by decide⟩, by decide, by decide⟩

theorem witness_EncodedFramesAreWhole :
    defaultRegistry.legal = true ∧
      encodeKind defaultRegistry .headingCourse (operands 359 719) =
        .frame [0x84, 0x76, 0xEC, 0xB3, 0, 0, 0, 0, 0] := by
  decide

theorem witness_EncodedFrameRoundTrips :
    ({ State.reset with input := bytesOf [0x10, 0x01, 0x02, 0xCF] } : State).Inv ∧
      encodeKind State.reset.registry .windAngle { Opnd.zero with angleHalf := 719 } =
        .frame [0x10, 0x01, 0x02, 0xCF] ∧
      (∀ j, j.id < Kind.windAngle.id → State.reset.registry.isCandidate [0x10, 0x01, 0x02, 0xCF] j = true →
        matchKind State.reset.registry j [0x10, 0x01, 0x02, 0xCF] = false) ∧
      deliver [0x10, 0x01, 0x02, 0xCF] (bytesOf [0x10, 0x01, 0x02, 0xCF]) := by
  refine ⟨inv_boundary _, by decide, fun j => ?_, rfl, by simp [bytesOf]⟩
  cases j <;> decide

/-- A state that meets the invariant, and a step of it. -/
theorem witness_StepKeepsInvariant :
    ({ State.reset with input := bytesOf [0x30] } : State).Inv ∧
      isNext (step { State.reset with input := bytesOf [0x30] }) = true :=
  ⟨inv_boundary _, by decide⟩

theorem witness_NoPresentationStopsTheMachine : (holding [0x20, 0x01, 0x00] (framelen 0x01)).Inv :=
  inv_holding (by decide)

theorem witness_RegistryIsNeverWritten : isNext (step State.reset) = true := by decide

/-- Both clauses: an event after a fault, and a reset after a fault. -/
theorem witness_FaultIsSticky :
    isNext (step { presented 0x0005 .zero with fault := ⟨true, .helperDomain⟩ }) = true ∧
      isNext (step { State.reset with fault := ⟨true, .helperDomain⟩, input := [⟨true, 0x0005, .zero⟩] }) = true := by
  decide

/-- Both clauses. -/
theorem witness_ResultsLastOneStep :
    (encodes (.encode 0xF) ∧ encodes .encStw) ∧ isNext (exec (.encode 0xF) State.reset) = true ∧
      receives (.byteIn 0) = true ∧ isNext (exec (.byteIn 0) State.reset) = true :=
  ⟨⟨.inl ⟨0xF, rfl⟩, .inr ⟨.stw, rfl⟩⟩, by decide, by decide, by decide⟩

/-- Both clauses: a step, and a step whose DIAG is not 0. -/
theorem witness_DiagFollowsTheMessage :
    State.reset.registry.nav.unrecognised = 0xA0 ∧
      (match step { holding [0x85, 0x56, 0x10, 0xA0, 0xB5, 0x07, 0xF7, 0x00] 9 with
          input := [⟨false, eventWord 0x1 0 0x08, .zero⟩] } with
        | .next t => t.diag
        | _ => 0) = 0xA0 := by
  decide

theorem witness_OnlyEncodeReadsOpnd : ¬ encodes .cancel ∧ isNext (exec .cancel State.reset) = true := by
  refine ⟨?_, by decide⟩
  rintro (⟨k, h⟩ | ⟨k, h⟩)
  · cases h
  · cases k <;> cases h

theorem witness_NonReceivingInstructionsKeepTheAssembler :
    receives .encStw = false ∧ isNext (exec .encStw State.reset) = true ∧ ¬ reserved .encStw ∧
      ∀ kind, Instr.encStw = .encode kind → kind.toNat < 12 := by
  refine ⟨by decide, by decide, ?_, by simp⟩
  rintro ⟨k, d, h⟩
  simp at h

/-- A byte that stores, and one that completes a frame. -/
theorem witness_ByteInStoresAtFaCount :
    faOf (exec (.byteIn 0x01) (holdingCommand 0x20)) = some (.sPayload, 2) ∧
      faOf (exec (.byteIn 0x64) (holding [0x20, 0x01, 0x00] 4)) = some (.sCmd, 0) := by
  decide

theorem witness_BufStaysCanonical :
    Memory.wf (holding [0x20, 0x01, 0x00] 4).buf ∧ isNext (exec (.byteIn 0x64) (holding [0x20, 0x01, 0x00] 4)) = true := by
  decide

/-- Each clause at its limit. -/
theorem witness_BufAccessesStayInside :
    (holdingCommand 0x20).faCount.toNat ≤ 1 ∧ (18 ≤ 18) ∧ (17 < 18) ∧ 17 < (18 : BitVec 5).toNat := by
  decide

/-- A result read under its code. -/
theorem witness_RxFieldsValidUnderTheirCodes :
    ({ State.reset with rx := .unknown [0x12, 0x00, 0x00] } : State).readRxFrame = .ok [0x12, 0x00, 0x00] ∧
      ({ State.reset with rx := .unknown [0x12, 0x00, 0x00] } : State).Inv ∧
      ({ State.reset with rx := .message (.lamp 1 0) [0x30, 0x00, 0x04] } : State).readRxFields = .ok (.lamp 1 0) :=
  ⟨rfl, ⟨by decide, rfl, rfl, by simp [State.lengthInv, State.reset], by decide, by decide, trivial⟩, rfl⟩

/-- Both clauses. -/
theorem witness_TxFrameValidUnderItsCode :
    ({ State.reset with tx := .frame [0x30, 0x00, 0x04] } : State).readTxFrame = .ok [0x30, 0x00, 0x04] ∧
      State.reset.tx.code ≠ 1 :=
  ⟨rfl, by decide⟩

theorem witness_HelperDomainFaultIsUnreachable :
    isNext (step (presented 0x0005 .zero)) = true ∧ (presented 0x0005 .zero).fault.code ≠ .helperDomain := by
  decide

theorem witness_NopAndEncodeDisturbNothing :
    isNext (exec .nop (holding [0x20, 0x01, 0x00] 4)) = true ∧ Instr.encStw = encRow .stw := by
  decide

end Sys2Proof.Tests
end

/-! ### What the decoder gives for an event word -/

namespace Sys2Proof

open Sys2Proof.Machine

theorem withoutData_eq_ok {data : Byte} {i j : Instr} : withoutData data i = .ok j ↔ data = 0 ∧ i = j := by
  unfold withoutData
  split
  · next h => simp [h]
  · next h => exact iff_of_false (by simp) fun e => h e.1

theorem withoutKind_eq_ok {kind : Nibble} {r : Except Reject Instr} {i : Instr} :
    withoutKind kind r = .ok i ↔ kind = 0 ∧ r = .ok i := by
  unfold withoutKind
  split
  · next h => simp [h]
  · next h => exact iff_of_false (by simp) fun e => h e.1

theorem encode_encodeEvent (kind : Nibble) : ∃ e, encode (encodeEvent kind) = .event e := by
  unfold encodeEvent
  split
  · next k _ => cases k <;> exact ⟨_, rfl⟩
  · exact ⟨_, rfl⟩

/-- What an event word decodes to has an event word as its code, not a frame (30_encoding.md R73). -/
theorem encode_of_decodeEvent {e : EventWord} {i : Instr} (h : decodeEvent e = .ok i) :
    ∃ e', encode i = .event e' := by
  unfold decodeEvent at h
  split at h <;> simp only [withoutKind_eq_ok, withoutData_eq_ok, Except.ok.injEq] at h
  case h_1 | h_3 | h_4 =>
    obtain ⟨-, -, rfl⟩ := h
    exact ⟨_, rfl⟩
  case h_2 =>
    obtain ⟨-, rfl⟩ := h
    exact ⟨_, rfl⟩
  case h_5 =>
    obtain ⟨-, rfl⟩ := h
    exact encode_encodeEvent _
  all_goals
    subst h
    exact ⟨_, rfl⟩

theorem encode_decodeRow (k : Kind) (f : Frame) : encode (decodeRow k f) = .frame f := by
  cases k <;> rfl

/-- No event word decodes to a DECODE row: those are selected by frames (30_encoding.md R62). -/
theorem decodeEvent_ne_decodeRow (e : EventWord) (k : Kind) (f : Frame) : decodeEvent e ≠ .ok (decodeRow k f) := by
  intro h
  obtain ⟨e', he⟩ := encode_of_decodeEvent h
  rw [encode_decodeRow] at he
  cases he

end Sys2Proof

/-! ### What a step with an event can do -/

namespace Sys2Proof.Machine

/-- Everything a step on an event word can do when it answers a next state: an illegal event, NOP, an encoder's answer,
CANCEL, SOURCE_CLOSED, or BYTE_IN (which has its own inversion lemma). -/
theorem runEvent_effect {e : EventWord} {s t : State} (h : runEvent e s = .next t) :
    t = s.illegalEvent ∨ t = s.presentRx .none 0 ∨ (∃ k, t = s.presentTx (encodeKind s.registry k s.opnd)) ∨
      t = s.dropFrame.presentRx (.cancelled s.faCount) 0 ∨
      (s.faState ≠ .sCmd ∧ t = s.dropFrame.presentRx (.framingError s.faCount) 0) ∨
      ∃ b, exec (.byteIn b) s = .next t := by
  obtain ⟨-, ht⟩ | ⟨i, hi, hx⟩ := runEvent_cases h
  · exact .inl ht
  · rcases exec_cases hx with ⟨b, rfl⟩ | rfl | rfl | ⟨-, ht⟩ | ⟨k, -, ht⟩ | ⟨-, ht⟩ | ⟨k, f, rfl, -⟩
    · exact .inr (.inr (.inr (.inr (.inr ⟨b, hx⟩))))
    · rcases execSourceClosed_cases hx with ⟨-, ht⟩ | ht
      · exact .inr (.inl ht)
      · exact .inr (.inr (.inr (.inr (.inl ht))))
    · cases hx
      exact .inr (.inr (.inr (.inl rfl)))
    · exact .inr (.inl ht)
    · exact .inr (.inr (.inl ⟨k, ht⟩))
    · exact .inl ht
    · exact absurd hi (decodeEvent_ne_decodeRow e k f)

/-- A step that takes a presentation is a reset or runs the event word, with the operand record on its port. -/
theorem step_taken_cases {s t : State} {p : Presentation} {rest : List Presentation} (hin : s.input = p :: rest)
    (h : step s = .next t) :
    (p.rst = true ∧ t = State.applyReset { s with input := rest }) ∨
      (p.rst = false ∧ runEvent p.ev { s with input := rest, opnd := p.opnd } = .next t) := by
  obtain ⟨-, ⟨hnil, -⟩ | ⟨p', rest', hin', ht⟩⟩ := step_cases h
  · simp [hin] at hnil
  · rw [hin] at hin'
    cases hin'
    exact ht

/-! ### The frames the encoders give are whole -/

/-- A frame whose second byte announces its own length is whole (30_encoding.md R60). -/
theorem wholeFrame_of_attributeByte {n : Nat} (h3 : 3 ≤ n) (h18 : n ≤ 18) (cmd : Byte) (aux : Nibble)
    {payload : List Byte} (hn : payload.length + 2 = n) : wholeFrame (cmd :: attributeByte aux n :: payload) = true := by
  have haux := aux.isLt
  rw [wholeFrame_cons, attributeByte_eq aux h3 h18, BitVec.toNat_ofNat]
  omega

theorem wholeFrame_of_encodeHeadingCourse {r : Registry} (hr : r.legal = true) {o : Opnd} {f : Frame}
    (h : encodeHeadingCourse r o = .frame f) : wholeFrame f = true := by
  obtain ⟨h4, h18, -⟩ := Registry.legal_iff.1 hr
  unfold encodeHeadingCourse at h
  split at h
  · cases h
  · cases h
    refine wholeFrame_of_attributeByte (by omega) h18 _ _ ?_
    simp
    omega

theorem wholeFrame_of_encodeKeystroke {r : Registry} (hr : r.legal = true) {o : Opnd} {f : Frame}
    (h : encodeKeystroke r o = .frame f) : wholeFrame f = true := by
  obtain ⟨-, -, h4, h18, -⟩ := Registry.legal_iff.1 hr
  cases h
  refine wholeFrame_of_attributeByte (by omega) h18 _ _ ?_
  simp
  omega

/-- Every frame an encoder gives is whole (43_codecs.md R201). -/
theorem wholeFrame_of_encodeKind {r : Registry} (hr : r.legal = true) {k : Kind} {o : Opnd} {f : Frame}
    (h : encodeKind r k o = .frame f) : wholeFrame f = true := by
  cases k with
  | headingCourse => exact wholeFrame_of_encodeHeadingCourse hr h
  | keystroke => exact wholeFrame_of_encodeKeystroke hr h
  | windAngle =>
    simp only [encodeKind, encodeWindAngle] at h
    split at h <;> cases h
    exact wholeFrame_cons.2 rfl
  | windSpeed =>
    simp only [encodeKind, encodeWindSpeed] at h
    split at h <;> cases h
    exact wholeFrame_cons.2 rfl
  | waypointName =>
    simp only [encodeKind, encodeWaypointName] at h
    split at h <;> cases h
    exact wholeFrame_cons.2 rfl
  | lamp =>
    simp only [encodeKind, encodeLamp] at h
    split at h <;> cases h
    exact wholeFrame_cons.2 rfl
  | stw =>
    cases h
    exact wholeFrame_cons.2 rfl
  | navToWaypoint | calibration | deadband | ccWarnings | apWindStatus => cases h

/-! ### Every update keeps the invariant -/

/-- At most 17 bytes are held (10_state.md R22). -/
theorem State.Inv.faCount_le {s : State} (h : s.Inv) : s.faCount.toNat ≤ 17 := by
  have hc := h.count
  unfold State.countInv at hc
  split at hc
  · simp [hc]
  · simp [hc]
  · omega

/-- Away from the frame boundary at least one byte is held (10_state.md R22). -/
theorem State.Inv.faCount_pos {s : State} (h : s.Inv) (hs : s.faState ≠ .sCmd) : 1 ≤ s.faCount.toNat := by
  have hc := h.count
  unfold State.countInv at hc
  split at hc
  · contradiction
  · simp [hc]
  · omega

theorem State.Inv.withPorts {s : State} (h : s.Inv) (o : Opnd) (ps : List Presentation) :
    State.Inv { s with input := ps, opnd := o } :=
  { h with }

theorem State.Inv.presentRx {s : State} (h : s.Inv) {rx : Rx} {diag : Byte} (hrx : (s.presentRx rx diag).rxInv) :
    (s.presentRx rx diag).Inv :=
  { h with rx := hrx, tx := trivial }

theorem State.Inv.presentTx {s : State} (h : s.Inv) {tx : Tx} (htx : (s.presentTx tx).txInv) : (s.presentTx tx).Inv :=
  { h with rx := trivial, tx := htx }

theorem State.Inv.dropFrame {s : State} (h : s.Inv) : s.dropFrame.Inv :=
  { h with count := rfl, buf := rfl, length := fun hs => by cases hs }

theorem State.Inv.raiseFault {s : State} (h : s.Inv) {code : FaultCode} (hcode : code ≠ .none) :
    (s.raiseFault code).Inv := by
  refine { h with fault := ?_ }
  cases hf : s.fault.flag with
  | true =>
    simp only [State.faultInv, State.raiseFault_fault, FaultReg.raise_of_flag hf]
    exact h.fault
  | false => simp [State.faultInv, FaultReg.raise_of_clear hf, hcode]

theorem State.Inv.illegalEvent {s : State} (h : s.Inv) : s.illegalEvent.Inv :=
  (h.presentRx (rx := .none) trivial).raiseFault (by decide)

theorem State.Inv.applyReset {s : State} (h : s.Inv) : s.applyReset.Inv :=
  { h.dropFrame.presentRx (rx := .none) (diag := 0) trivial with fault := iff_of_true rfl rfl }

/-- The result of a whole frame's classification, presented, keeps the invariant. -/
theorem State.Inv.present {s : State} (h : s.Inv) {f : Frame} (hf : wholeFrame f = true) (rep : Report) :
    (s.present f rep).Inv := by
  cases rep with
  | unknown => exact h.presentRx hf
  | malformed => exact h.presentRx hf
  | message fields diag => exact h.presentRx hf
  | helperDomain => exact (h.presentRx (rx := .malformed f) hf).raiseFault (by decide)

/-- The answer of an encoder, presented, keeps the invariant (43_codecs.md R201). -/
theorem State.Inv.presentTx_encodeKind {s : State} (h : s.Inv) (k : Kind) (o : Opnd) :
    (s.presentTx (encodeKind s.registry k o)).Inv := by
  refine h.presentTx ?_
  simp only [State.txInv, State.presentTx_tx]
  split
  · next f hf => exact wholeFrame_of_encodeKind h.registry hf
  all_goals trivial

/-! ### BYTE_IN keeps the invariant -/

theorem State.Inv.byteIn_sCmd {s t : State} (h : s.Inv) (hs : s.faState = .sCmd) {b : Byte}
    (hx : exec (.byteIn b) s = .next t) : t.Inv := by
  have hcount := h.count
  simp only [State.countInv, hs] at hcount
  have hbuf : s.buf.map Prod.fst = List.range 0 := h.buf.trans (by rw [hcount]; rfl)
  change execByteIn b s = _ at hx
  rw [execByteIn_sCmd hs] at hx
  cases hx
  exact { h with
    count := rfl, buf := Memory.write_range hbuf b, length := fun e => (by cases e), rx := trivial, tx := trivial }

theorem State.Inv.byteIn_sAttr {s t : State} (h : s.Inv) (hs : s.faState = .sAttr) {b : Byte}
    (hx : exec (.byteIn b) s = .next t) : t.Inv := by
  have hcount := h.count
  simp only [State.countInv, hs] at hcount
  have hbuf : s.buf.map Prod.fst = List.range 1 := h.buf.trans (by rw [hcount]; rfl)
  have hlen := framelen_toNat b
  change execByteIn b s = _ at hx
  rw [execByteIn_sAttr hs] at hx
  cases hx
  refine { h with
    count := ⟨le_refl 2, ?_, ?_⟩, buf := Memory.write_range hbuf b
    length := fun _ => ⟨b, Memory.read_write_same _ _ _, rfl⟩, rx := trivial, tx := trivial }
  · show 2 < (framelen b).toNat
    omega
  · show (framelen b).toNat ≤ 18
    omega

/-- The payload byte that leaves the frame incomplete: the byte at index 1, which gave FA_LEN, is not overwritten. -/
theorem State.Inv.byteIn_sPayload_more {s t : State} (h : s.Inv) (hs : s.faState = .sPayload)
    (hl : s.faCount.toNat + 1 ≠ s.faLen.toNat) {b : Byte} (hx : exec (.byteIn b) s = .next t) : t.Inv := by
  have hcount := h.count
  simp only [State.countInv, hs] at hcount
  obtain ⟨h2, hlt, h18⟩ := hcount
  have hnext : (s.faCount + 1).toNat = s.faCount.toNat + 1 := by
    rw [BitVec.toNat_add]
    exact Nat.mod_eq_of_lt (by simp; omega)
  obtain ⟨a, ha, hlen⟩ := h.length hs
  change execByteIn b s = _ at hx
  rw [execByteIn_sPayload_more hs (by omega) hl] at hx
  cases hx
  refine { h with
    count := ?_, buf := ?_, length := fun _ => ⟨a, ?_, hlen⟩, rx := trivial, tx := trivial }
  · simp only [State.countInv, hs, hnext]
    omega
  · simp only [State.bufInv, hnext]
    exact Memory.write_range h.buf b
  · exact (Memory.read_write_other _ _ (by omega)).trans ha

theorem State.Inv.byteIn_sPayload_last {s t : State} (h : s.Inv) (hs : s.faState = .sPayload)
    (hl : s.faCount.toNat + 1 = s.faLen.toNat) {b : Byte} (hx : exec (.byteIn b) s = .next t) : t.Inv := by
  obtain ⟨held, -, -, -, hwhole, heq⟩ := execByteIn_completes h hs hl b
  change execByteIn b s = _ at hx
  rw [heq] at hx
  cases hx
  exact h.dropFrame.present hwhole _

theorem State.Inv.byteIn {s t : State} (h : s.Inv) {b : Byte} (hx : exec (.byteIn b) s = .next t) : t.Inv := by
  cases hs : s.faState with
  | sCmd => exact h.byteIn_sCmd hs hx
  | sAttr => exact h.byteIn_sAttr hs hx
  | sPayload =>
    by_cases hl : s.faCount.toNat + 1 = s.faLen.toNat
    · exact h.byteIn_sPayload_last hs hl hx
    · exact h.byteIn_sPayload_more hs hl hx

/-! ### The invariant -/

theorem State.Inv.runEvent {s t : State} (h : s.Inv) {e : EventWord} (hx : runEvent e s = .next t) : t.Inv := by
  rcases runEvent_effect hx with rfl | rfl | ⟨k, rfl⟩ | rfl | ⟨hs, rfl⟩ | ⟨b, hb⟩
  · exact h.illegalEvent
  · exact h.presentRx trivial
  · exact h.presentTx_encodeKind k s.opnd
  · exact h.dropFrame.presentRx h.faCount_le
  · exact h.dropFrame.presentRx ⟨h.faCount_pos hs, h.faCount_le⟩
  · exact h.byteIn hb

/-- Settles O44: a step that takes nothing changes nothing, and every update a reset or an event makes keeps the
invariant. -/
theorem stepKeepsInvariant : Obligations.StepKeepsInvariant := by
  intro s t h hstep
  obtain ⟨-, ⟨-, rfl⟩ | ⟨p, rest, -, ⟨-, rfl⟩ | ⟨-, hrun⟩⟩⟩ := step_cases hstep
  · exact h
  · exact (h.withPorts s.opnd rest).applyReset
  · exact (h.withPorts p.opnd rest).runEvent hrun

end Sys2Proof.Machine

/-! ### FAULT is sticky -/

namespace Sys2Proof.Machine

/-- BYTE_IN never writes FAULT (41_dispatcher.md R125), and leaves TX at TX_NONE (10_state.md R29). -/
theorem execByteIn_fault_tx {b : Byte} {s t : State} (h : exec (.byteIn b) s = .next t) :
    t.fault = s.fault ∧ t.tx = .none := by
  obtain ⟨-, rfl⟩ | ⟨-, rfl⟩ | ⟨-, -, -, rfl⟩ | ⟨-, -, -, f, rfl⟩ := execByteIn_cases h
  · exact ⟨rfl, rfl⟩
  · exact ⟨rfl, rfl⟩
  · exact ⟨rfl, rfl⟩
  · obtain ⟨rx, diag, hp⟩ := State.present_classifyAmong s.dropFrame f s.registry Kind.all
    rw [classify, hp]
    exact ⟨rfl, rfl⟩

/-- An event leaves FAULT as it is, or raises the illegal-event fault. -/
theorem runEvent_fault {e : EventWord} {s t : State} (h : runEvent e s = .next t) :
    t.fault = s.fault ∨ t.fault = s.fault.raise .illegalEvent := by
  rcases runEvent_effect h with rfl | rfl | ⟨k, rfl⟩ | rfl | ⟨-, rfl⟩ | ⟨b, hb⟩
  · exact .inr rfl
  · exact .inl rfl
  · exact .inl rfl
  · exact .inl rfl
  · exact .inl rfl
  · exact .inl (execByteIn_fault_tx hb).1

/-- Settles O48: the only write of FAULT by an event is raising it, which keeps a fault already there. -/
theorem faultIsSticky : Obligations.FaultIsSticky := by
  refine ⟨fun s t p rest hin hstep => ?_, rfl, rfl, rfl, rfl⟩
  rcases step_taken_cases hin hstep with ⟨hrst, rfl⟩ | ⟨hrst, hrun⟩
  · exact ⟨by simp [hrst], fun _ => ⟨rfl, rfl⟩⟩
  · refine ⟨fun _ hflag => ?_, by simp [hrst]⟩
    rcases runEvent_fault hrun with hf | hf
    · exact hf
    · exact hf.trans (FaultReg.raise_of_flag hflag _)

end Sys2Proof.Machine

/-! ### The results last one step -/

namespace Sys2Proof.Machine

/-- The state with other contents of the three result registers. -/
def State.withResults (s : State) (rx : Rx) (tx : Tx) (diag : Byte) : State :=
  { s with rx := rx, tx := tx, diag := diag }

theorem State.present_withResults (s : State) (rx : Rx) (tx : Tx) (diag : Byte) (f : Frame) (rep : Report) :
    (s.withResults rx tx diag).present f rep = s.present f rep := by
  cases rep <;> rfl

theorem classifyInto_withResults (ks : List Kind) (f : Frame) (s : State) (rx : Rx) (tx : Tx) (diag : Byte) :
    classifyInto ks f (s.withResults rx tx diag) = classifyInto ks f s := by
  simp only [classifyInto, State.present_withResults]
  rfl

theorem State.bufReadPrefix_withResults (s : State) (rx : Rx) (tx : Tx) (diag : Byte) (n : Nat) :
    (s.withResults rx tx diag).bufReadPrefix n = s.bufReadPrefix n := by
  induction n with
  | zero => rfl
  | succ n ih =>
    simp only [State.bufReadPrefix, ih]
    rfl

theorem completeFrame_withResults (b : Byte) (s : State) (rx : Rx) (tx : Tx) (diag : Byte) :
    completeFrame b (s.withResults rx tx diag) = completeFrame b s := by
  have hclassify (held : List Byte) :
      classifyInto Kind.all (held ++ [b]) (s.withResults rx tx diag).dropFrame =
        classifyInto Kind.all (held ++ [b]) s.dropFrame :=
    classifyInto_withResults Kind.all (held ++ [b]) s.dropFrame rx tx diag
  simp only [completeFrame, State.bufReadPrefix_withResults, hclassify]
  rfl

/-- BYTE_IN writes all three results in each FA_STATE, so none of the last step's is left. -/
theorem execByteIn_withResults (b : Byte) (s : State) (rx : Rx) (tx : Tx) (diag : Byte) :
    execByteIn b (s.withResults rx tx diag) = execByteIn b s := by
  cases hs : s.faState with
  | sCmd =>
    rw [execByteIn_sCmd hs, execByteIn_sCmd (s := s.withResults rx tx diag) hs]
    rfl
  | sAttr =>
    rw [execByteIn_sAttr hs, execByteIn_sAttr (s := s.withResults rx tx diag) hs]
    rfl
  | sPayload =>
    by_cases hc : s.faCount.toNat < 18
    · by_cases hl : s.faCount.toNat + 1 = s.faLen.toNat
      · rw [execByteIn_sPayload_last hs hc hl, execByteIn_sPayload_last (s := s.withResults rx tx diag) hs hc hl]
        exact completeFrame_withResults b { s with buf := Memory.write s.buf s.faCount.toNat b } rx tx diag
      · rw [execByteIn_sPayload_more hs hc hl, execByteIn_sPayload_more (s := s.withResults rx tx diag) hs hc hl]
        rfl
    · rw [execByteIn_sPayload_full hs (by omega),
        execByteIn_sPayload_full (s := s.withResults rx tx diag) hs (Nat.le_of_not_lt hc)]

theorem execSourceClosed_withResults (s : State) (rx : Rx) (tx : Tx) (diag : Byte) :
    execSourceClosed (s.withResults rx tx diag) = execSourceClosed s := by
  obtain ⟨faState⟩ := s
  cases faState <;> rfl

theorem execEncode_withResults (kind : Nibble) (s : State) (rx : Rx) (tx : Tx) (diag : Byte) :
    execEncode kind (s.withResults rx tx diag) = execEncode kind s := by
  unfold execEncode
  split <;> rfl

/-- No instruction's outcome depends on the results of the step before (10_state.md R29). -/
theorem exec_withResults (i : Instr) (s : State) (rx : Rx) (tx : Tx) (diag : Byte) :
    exec i (s.withResults rx tx diag) = exec i s := by
  rcases instr_cases i with ⟨b, rfl⟩ | rfl | rfl | rfl | ⟨k, rfl⟩ | ⟨kind, rfl⟩ | hi | ⟨k, f, rfl⟩
  · exact execByteIn_withResults b s rx tx diag
  · exact execSourceClosed_withResults s rx tx diag
  · rfl
  · rfl
  · rw [exec_encRow, exec_encRow]
    rfl
  · exact execEncode_withResults kind s rx tx diag
  · rw [exec_of_reserved hi, exec_of_reserved hi]
    rfl
  · rw [exec_decodeRow, exec_decodeRow, classifyInto_withResults]

/-- ENCODE leaves RX at RX_NONE (10_state.md R29). -/
theorem exec_rx_of_encodes {i : Instr} {s t : State} (hi : encodes i) (h : exec i s = .next t) : t.rx = .none := by
  obtain ⟨kind, rfl⟩ | ⟨k, rfl⟩ := hi
  · simp only [exec, execEncode] at h
    split at h <;> cases h <;> rfl
  · rw [exec_encRow] at h
    cases h
    rfl

theorem receives_iff {i : Instr} : receives i = true ↔ (∃ b, i = .byteIn b) ∨ i = .sourceClosed ∨ i = .cancel := by
  cases i <;> simp [receives]

/-- The receive path leaves TX at TX_NONE (10_state.md R29). -/
theorem exec_tx_of_receives {i : Instr} {s t : State} (hi : receives i = true) (h : exec i s = .next t) :
    t.tx = .none := by
  obtain ⟨b, rfl⟩ | rfl | rfl := receives_iff.1 hi
  · exact (execByteIn_fault_tx h).2
  · obtain ⟨-, rfl⟩ | ⟨-, rfl⟩ := execSourceClosed_cases h <;> rfl
  · cases h
    rfl

/-- Settles O49: every instruction overwrites the results, and each class of events has its own default. -/
theorem resultsLastOneStep : Obligations.ResultsLastOneStep := by
  refine ⟨exec_withResults, fun i s t h => ⟨?_, ?_⟩⟩
  · rintro (rfl | hi)
    · cases h
      rfl
    · exact exec_rx_of_encodes hi h
  · rintro (rfl | hi)
    · cases h
      rfl
    · exact exec_tx_of_receives hi h

end Sys2Proof.Machine

/-! ### DIAG follows the message -/

namespace Sys2Proof.Machine

/-- DIAG beside a decoded record (10_state.md R27). -/
def Fields.diag (mask : Byte) : Fields → Byte
  | .keystroke key _ _ => keystrokeDiag key
  | .navToWaypoint record => record.flags &&& mask
  | _ => 0

/-- DIAG beside the contents of RX: 0 without a message. -/
def Rx.diag (mask : Byte) : Rx → Byte
  | .message fields _ => fields.diag mask
  | _ => 0

/-- The DIAG a decoder returns is the one of its record. -/
theorem decodeKind_diag {r : Registry} {k : Kind} {f : Frame} {fields : Fields} {diag : Byte}
    (h : decodeKind r k f = some (fields, diag)) : diag = fields.diag r.nav.unrecognised := by
  cases k with
  | headingCourse =>
    obtain ⟨hd, -, he⟩ := Option.map_eq_some_iff.1 h
    cases he
    rfl
  | windAngle | windSpeed | keystroke | waypointName | navToWaypoint | calibration | deadband | lamp | stw | ccWarnings
  | apWindStatus =>
    cases h
    rfl

theorem firstMatch_diag {r : Registry} {f : Frame} {ks : List Kind} {fields : Fields} {diag : Byte}
    (h : firstMatch r f ks = .message fields diag) : diag = fields.diag r.nav.unrecognised := by
  induction ks with
  | nil => cases h
  | cons k ks ih =>
    unfold firstMatch at h
    split at h
    · split at h
      · next hd =>
        cases h
        exact decodeKind_diag hd
      · cases h
    · exact ih h

theorem classifyAmong_diag {r : Registry} {ks : List Kind} {f : Frame} {fields : Fields} {diag : Byte}
    (h : classifyAmong r ks f = .message fields diag) : diag = fields.diag r.nav.unrecognised := by
  unfold classifyAmong at h
  split at h
  · cases h
  · exact firstMatch_diag h

/-- The classification's DIAG is the one of what it puts in RX. -/
theorem State.present_classifyAmong_diag (s : State) (r : Registry) (ks : List Kind) (f : Frame) :
    (s.present f (classifyAmong r ks f)).diag = (s.present f (classifyAmong r ks f)).rx.diag r.nav.unrecognised := by
  cases hrep : classifyAmong r ks f with
  | unknown => rfl
  | malformed => rfl
  | message fields diag => exact classifyAmong_diag hrep
  | helperDomain => rfl

/-- Every event leaves the DIAG of what it leaves in RX (10_state.md R27). -/
theorem runEvent_diag {e : EventWord} {s t : State} (h : runEvent e s = .next t) :
    t.diag = t.rx.diag s.registry.nav.unrecognised := by
  rcases runEvent_effect h with rfl | rfl | ⟨k, rfl⟩ | rfl | ⟨-, rfl⟩ | ⟨b, hb⟩
  · rfl
  · rfl
  · rfl
  · rfl
  · rfl
  · obtain ⟨-, rfl⟩ | ⟨-, rfl⟩ | ⟨-, -, -, rfl⟩ | ⟨-, -, -, f, rfl⟩ := execByteIn_cases hb
    · rfl
    · rfl
    · rfl
    · exact s.dropFrame.present_classifyAmong_diag s.registry Kind.all f

theorem step_taken_diag {s t : State} {p : Presentation} {rest : List Presentation} (hin : s.input = p :: rest)
    (h : step s = .next t) : t.diag = t.rx.diag s.registry.nav.unrecognised := by
  rcases step_taken_cases hin h with ⟨-, rfl⟩ | ⟨-, hrun⟩
  · rfl
  · exact runEvent_diag (s := { s with input := rest, opnd := p.opnd }) hrun

/-- DIAG is nonzero only beside RX_MESSAGE. -/
theorem Rx.code_of_diag_ne_zero {mask : Byte} {rx : Rx} (h : rx.diag mask ≠ 0) : rx.code = 2 := by
  cases rx with
  | message fields f => rfl
  | none | needMore | unknown | malformed | framingError | cancelled => exact absurd rfl h

/-- Settles O50: a step's DIAG is the one of its RX, read here at the default layout's mask. -/
theorem diagFollowsTheMessage : Obligations.DiagFollowsTheMessage := by
  refine ⟨rfl, fun s t p rest hmask hin hstep => ?_⟩
  have hdiag := step_taken_diag hin hstep
  rw [hmask] at hdiag
  refine ⟨?_, fun hne => Rx.code_of_diag_ne_zero (hdiag ▸ hne)⟩
  rw [hdiag]
  cases t.rx with
  | message fields f => cases fields <;> rfl
  | none | needMore | unknown | malformed | framingError | cancelled => rfl

end Sys2Proof.Machine

/-! ### The reads of the results -/

namespace Sys2Proof.Machine

theorem State.readRxKind_isOk_iff (s : State) : (∃ k, s.readRxKind = .ok k) ↔ s.rx.code = 2 := by
  cases h : s.rx <;> simp [State.readRxKind, Rx.code, h]

theorem State.readRxFields_isOk_iff (s : State) : (∃ fields, s.readRxFields = .ok fields) ↔ s.rx.code = 2 := by
  cases h : s.rx <;> simp [State.readRxFields, Rx.code, h]

theorem State.readRxFrame_isOk_iff (s : State) :
    (∃ f, s.readRxFrame = .ok f) ↔ s.rx.code = 2 ∨ s.rx.code = 3 ∨ s.rx.code = 4 := by
  cases h : s.rx <;> simp [State.readRxFrame, Rx.code, h]

theorem State.readRxDiscarded_isOk_iff (s : State) :
    (∃ n, s.readRxDiscarded = .ok n) ↔ s.rx.code = 5 ∨ s.rx.code = 6 := by
  cases h : s.rx <;> simp [State.readRxDiscarded, Rx.code, h]

theorem State.readRxLen_of_frame {s : State} {f : Frame} (h : s.readRxFrame = .ok f) :
    s.readRxLen = .ok (BitVec.ofNat 5 f.length) := by
  simp [State.readRxLen, h]

/-- RX.len is valid exactly where RX.frame is. -/
theorem State.readRxLen_isOk_iff (s : State) : (∃ n, s.readRxLen = .ok n) ↔ ∃ f, s.readRxFrame = .ok f := by
  cases h : s.readRxFrame <;> simp [State.readRxLen, h]

theorem State.readRxKind_of_fields {s : State} {fields : Fields} (h : s.readRxFields = .ok fields) :
    s.readRxKind = .ok (BitVec.ofNat 4 fields.kind.id) := by
  unfold State.readRxFields at h
  split at h
  · next hrx =>
    cases h
    simp [State.readRxKind, hrx]
  · cases h

/-- A frame the host reads from RX is whole (10_state.md R25). -/
theorem State.Inv.wholeFrame_of_readRxFrame {s : State} (hi : s.Inv) {f : Frame} (h : s.readRxFrame = .ok f) :
    wholeFrame f = true := by
  have hrx := hi.rx
  unfold State.readRxFrame at h
  split at h <;> cases h
  all_goals
    next hs =>
    simpa [State.rxInv, hs] using hrx

/-- Settles O56, read by read. -/
theorem rxFieldsValidUnderTheirCodes : Obligations.RxFieldsValidUnderTheirCodes := by
  refine ⟨⟨rfl, rfl, fun _ _ => rfl, fun _ => rfl, fun _ => rfl, fun _ => rfl, fun _ => rfl⟩, rfl, fun s => ?_⟩
  refine ⟨s.readRxKind_isOk_iff, s.readRxFields_isOk_iff, s.readRxFrame_isOk_iff,
    s.readRxLen_isOk_iff.trans s.readRxFrame_isOk_iff, s.readRxDiscarded_isOk_iff,
    fun _ h => State.readRxKind_of_fields h, fun f h => ⟨State.readRxLen_of_frame h, fun hi => ?_⟩⟩
  exact (wholeFrame_length (hi.wholeFrame_of_readRxFrame h)).2

theorem State.readTxFrame_isOk_iff (s : State) : (∃ f, s.readTxFrame = .ok f) ↔ s.tx.code = 1 := by
  cases h : s.tx <;> simp [State.readTxFrame, Tx.code, h]

theorem State.readTxLen_of_frame {s : State} {f : Frame} (h : s.readTxFrame = .ok f) :
    s.readTxLen = .ok (BitVec.ofNat 5 f.length) := by
  simp [State.readTxLen, h]

/-- Outside TX_FRAME a read of the frame is a fault (10_state.md R26). -/
theorem State.readTxFrame_of_code_ne {s : State} (h : s.tx.code ≠ 1) : s.readTxFrame = .error .resultNoValue := by
  cases hs : s.tx with
  | frame bytes => exact absurd (by rw [hs]; rfl) h
  | none | unsupported | outOfRange => simp [State.readTxFrame, hs]

/-- Settles O57: TX.len is read where TX.frame is. -/
theorem txFrameValidUnderItsCode : Obligations.TxFrameValidUnderItsCode := by
  refine ⟨⟨rfl, fun _ => rfl, rfl, rfl⟩, rfl, fun s => ?_⟩
  refine ⟨s.readTxFrame_isOk_iff, fun _ h => State.readTxLen_of_frame h, fun h => ?_⟩
  have hframe := State.readTxFrame_of_code_ne h
  exact ⟨hframe, by simp [State.readTxLen, hframe]⟩

end Sys2Proof.Machine

/-! ### What the memories hold after an event -/

namespace Sys2Proof.Machine

theorem execByteIn_registry {b : Byte} {s t : State} (h : exec (.byteIn b) s = .next t) : t.registry = s.registry := by
  obtain ⟨-, rfl⟩ | ⟨-, rfl⟩ | ⟨-, -, -, rfl⟩ | ⟨-, -, -, f, rfl⟩ := execByteIn_cases h
  · rfl
  · rfl
  · rfl
  · obtain ⟨rx, diag, hp⟩ := State.present_classifyAmong s.dropFrame f s.registry Kind.all
    rw [classify, hp]
    rfl

theorem runEvent_registry {e : EventWord} {s t : State} (h : runEvent e s = .next t) : t.registry = s.registry := by
  rcases runEvent_effect h with rfl | rfl | ⟨k, rfl⟩ | rfl | ⟨-, rfl⟩ | ⟨b, hb⟩
  · simp
  · simp
  · simp
  · simp
  · simp
  · exact execByteIn_registry hb

/-- Settles O47: a step that takes nothing changes nothing, and no update a reset or an event makes writes the
registry. -/
theorem registryIsNeverWritten : Obligations.RegistryIsNeverWritten := by
  intro s t hstep
  obtain ⟨-, ⟨-, rfl⟩ | ⟨p, rest, -, ⟨-, rfl⟩ | ⟨-, hrun⟩⟩⟩ := step_cases hstep
  · rfl
  · simp
  · exact runEvent_registry (s := { s with input := rest, opnd := p.opnd }) hrun

/-- A store reads back at its own address, and every other address reads as before (20_memory.md R43). -/
theorem Memory.read_write_frame (m : Memory) (a : Nat) (b : Byte) :
    (m.write a b).read a = some b ∧ ∀ c, c ≠ a → (m.write a b).read c = m.read c :=
  ⟨m.read_write_same a b, fun _ hc => m.read_write_other b hc⟩

/-- Settles O53: each of the three stores of BYTE_IN leaves a partial frame held, and only the completion of a frame,
which empties BUF, ends at a frame boundary. -/
theorem byteInStoresAtFaCount : Obligations.ByteInStoresAtFaCount := by
  intro s t b h
  obtain ⟨hs, rfl⟩ | ⟨hs, rfl⟩ | ⟨hs, -, -, rfl⟩ | ⟨-, -, -, f, rfl⟩ := execByteIn_cases h
  · refine ⟨nofun, ?_⟩
    rintro - a rfl
    simpa only [hs] using s.buf.read_write_frame 0 b
  · refine ⟨nofun, ?_⟩
    rintro - a rfl
    simpa only [hs] using s.buf.read_write_frame 1 b
  · refine ⟨fun hcmd => absurd (hs.symm.trans hcmd) nofun, ?_⟩
    rintro - a rfl
    simpa only [hs] using s.buf.read_write_frame s.faCount.toNat b
  · obtain ⟨rx, diag, hp⟩ := State.present_classifyAmong s.dropFrame f s.registry Kind.all
    rw [classify, hp]
    exact ⟨fun _ => rfl, fun hheld => absurd rfl hheld⟩

end Sys2Proof.Machine

/-! ### Decoding and encoding agree -/

namespace Sys2Proof

open Sys2Proof.Machine

/-- An event word with these fields is the word made of them. -/
theorem eventWord_eq {e : EventWord} {op kind : Nibble} {data : Byte} (hop : (eventOp e).toNat = op.toNat)
    (hkind : eventKind e = kind) (hdata : eventData e = data) : eventWord op kind data = e := by
  rw [← BitVec.eq_of_toNat_eq hop, ← hkind, ← hdata, eventWord_fields]

/-- The row of an ENCODE event is coded as ENCODE with its KIND, whether an ENC row refines it or not (30_encoding.md
R73). -/
theorem encode_encodeEvent_eq (kind : Nibble) : encode (encodeEvent kind) = .event (eventWord 4 kind 0) := by
  revert kind
  decide

theorem wellFormed_encRow (r : Registry) (k : Kind) : WellFormed r (encRow k) = true := by
  cases k <;> rfl

theorem encodeEvent_of_le {kind : Nibble} (h : 12 ≤ kind.toNat) : encodeEvent kind = .encode kind := by
  obtain ⟨k, -, hlt⟩ | ⟨hnone, -⟩ := Kind.ofId_cases kind
  · omega
  · simp [encodeEvent, hnone]

theorem wellFormed_encodeEvent (r : Registry) (kind : Nibble) : WellFormed r (encodeEvent kind) = true := by
  obtain ⟨k, hk, -⟩ | ⟨-, hle⟩ := Kind.ofId_cases kind
  · simpa [encodeEvent, hk] using wellFormed_encRow r k
  · simpa [encodeEvent_of_le hle, WellFormed] using hle

theorem wellFormed_decodeRow (r : Registry) (k : Kind) (f : Frame) :
    WellFormed r (decodeRow k f) = frameOf r k f := by
  cases k <;> rfl

/-- What an event word decodes to is well-formed, and is coded as that word: OP, KIND and DATA are each given back
(30_encoding.md R70, R73). -/
theorem wellFormed_encode_of_decodeEvent (r : Registry) {e : EventWord} {i : Instr} (h : decodeEvent e = .ok i) :
    WellFormed r i = true ∧ encode i = .event e := by
  unfold decodeEvent at h
  split at h <;> simp only [withoutKind_eq_ok, withoutData_eq_ok, Except.ok.injEq] at h
  case h_1 hop | h_3 hop | h_4 hop =>
    obtain ⟨hkind, hdata, rfl⟩ := h
    exact ⟨rfl, congrArg Code.event (eventWord_eq hop hkind hdata)⟩
  case h_2 hop =>
    obtain ⟨hkind, rfl⟩ := h
    exact ⟨rfl, congrArg Code.event (eventWord_eq hop hkind rfl)⟩
  case h_5 hop =>
    obtain ⟨hdata, rfl⟩ := h
    rw [encode_encodeEvent_eq]
    exact ⟨wellFormed_encodeEvent r _, congrArg Code.event (eventWord_eq hop rfl hdata)⟩
  case h_16 =>
    subst h
    have hlt : (eventOp e).toNat < 16 := (eventOp e).isLt
    have hop : (eventOp e).toNat = 15 := by grind
    exact ⟨rfl, congrArg Code.event (eventWord_eq hop rfl rfl)⟩
  all_goals
    next hop =>
    subst h
    exact ⟨rfl, congrArg Code.event (eventWord_eq hop rfl rfl)⟩

/-- A reserved OP decodes to its own row, with every KIND and DATA (30_encoding.md R73). -/
theorem decode_encode_of_reserved (r : Registry) {i : Instr} (h : reserved i) : decode r (encode i) = .ok i := by
  obtain ⟨kind, data, h⟩ := h
  simp only [List.mem_cons, List.not_mem_nil, or_false] at h
  rcases h with rfl | rfl | rfl | rfl | rfl | rfl | rfl | rfl | rfl | rfl | rfl <;>
    simp [encode, decode, decodeEvent]

/-- A frame decodes to the row of the kind its header selects, and to nothing else (30_encoding.md R60, R62). -/
theorem decodeFrame_eq_ok {r : Registry} {f : Frame} {i : Instr} :
    decodeFrame r f = .ok i ↔ ∃ k, frameOf r k f = true ∧ i = decodeRow k f := by
  unfold decodeFrame frameOf selects
  split
  · next hw =>
    cases hfind : Kind.all.find? (r.isCandidate f) with
    | none => simp
    | some k => simp [hw, eq_comm]
  · next hw => simp [hw]

/-- Settles O1, by the forms an instruction can have: the fields of an event word are read back, and a DECODE row's
frame selects that row. -/
theorem decodeEncodeAgree : Obligations.DecodeEncodeAgree := by
  intro r i hw
  rcases instr_cases i with ⟨b, rfl⟩ | rfl | rfl | rfl | ⟨k, rfl⟩ | ⟨kind, rfl⟩ | hi | ⟨k, f, rfl⟩
  · simp [encode, decode, decodeEvent, withoutKind]
  · rfl
  · rfl
  · rfl
  · cases k <;> rfl
  · have hkind : 12 ≤ kind.toNat := by simpa [WellFormed] using hw
    simp [encode, decode, decodeEvent, withoutData, encodeEvent_of_le hkind]
  · exact decode_encode_of_reserved r hi
  · rw [encode_decodeRow]
    exact decodeFrame_eq_ok.2 ⟨k, wellFormed_decodeRow r k f ▸ hw, rfl⟩

/-- Settles O2: a decoded word is made of the fields the row keeps, and a decoded frame is kept whole. -/
theorem decodedCodesAreEncodings : Obligations.DecodedCodesAreEncodings := by
  intro r c i h
  cases c with
  | event e => exact wellFormed_encode_of_decodeEvent r h
  | frame f =>
    obtain ⟨k, hk, rfl⟩ := decodeFrame_eq_ok.1 h
    exact ⟨(wellFormed_decodeRow r k f).trans hk, encode_decodeRow k f⟩

/-- Settles O3, by evaluating the decoder on each word. -/
theorem sampleWordsDecode : Obligations.SampleWordsDecode := by
  unfold Obligations.SampleWordsDecode
  decide

end Sys2Proof

/-! ### Illegal event words -/

namespace Sys2Proof

open Sys2Proof.Machine Sys2Proof.Claims

/-- The rows that are illegal events: the reserved OP codes, and ENCODE with a KIND no kind has (30_encoding.md R74). -/
def illegalRow (i : Instr) : Prop := reserved i ∨ ∃ kind, i = .encode kind ∧ 12 ≤ kind.toNat

/-- An illegal row completes by raising the fault (60_exceptions.md R305). -/
theorem exec_of_illegalRow {i : Instr} (h : illegalRow i) (s : State) : exec i s = .next s.illegalEvent := by
  obtain hi | ⟨kind, rfl, hle⟩ := h
  · exact exec_of_reserved hi s
  · obtain ⟨k, -, hlt⟩ | ⟨hnone, -⟩ := Kind.ofId_cases kind
    · omega
    · simp [exec, execEncode, hnone]

/-- Settles O41: R305's state is the one every illegal row leaves. -/
theorem reservedRowsRaiseTheFault : Obligations.ReservedRowsRaiseTheFault :=
  ⟨fun s _ hi => exec_of_illegalRow (.inl hi) s, fun s kind hle => exec_of_illegalRow (.inr ⟨kind, rfl, hle⟩) s⟩

/-- No row but the illegal ones writes FAULT. -/
theorem exec_fault_of_not_illegalRow {i : Instr} {s t : State} (hi : ¬ illegalRow i) (h : exec i s = .next t) :
    t.fault = s.fault := by
  rcases exec_cases h with ⟨b, rfl⟩ | rfl | rfl | ⟨-, rfl⟩ | ⟨k, -, rfl⟩ | ⟨hill, -⟩ | ⟨k, f, -, rfl⟩
  · exact (execByteIn_fault_tx h).1
  · obtain ⟨-, rfl⟩ | ⟨-, rfl⟩ := execSourceClosed_cases h <;> simp
  · cases h
    simp
  · simp
  · simp
  · exact absurd hill hi
  · obtain ⟨rx, diag, hp⟩ := s.present_classifyAmong f s.registry (Kind.fromOn k)
    rw [hp]

/-- R74's list of illegal words, in the fields of the word. -/
theorem illegalWord_iff {e : EventWord} :
    illegalWord e ↔ 5 ≤ (eventOp e).toNat ∨ (eventKind e ≠ 0 ∧ (eventOp e).toNat ≠ 4) ∨
      (12 ≤ (eventKind e).toNat ∧ (eventOp e).toNat = 4) ∨ (eventData e ≠ 0 ∧ (eventOp e).toNat ≠ 1) := by
  simp [illegalWord, ← BitVec.toNat_inj]

theorem data_ne_zero_of_withoutData_error {data : Byte} {i : Instr} {x : Reject}
    (h : withoutData data i = .error x) : data ≠ 0 := by
  rintro rfl
  simp [withoutData] at h

theorem kind_ne_zero_of_withoutKind_error {kind : Nibble} {r : Except Reject Instr} {x : Reject}
    (h : withoutKind kind r = .error x) : kind ≠ 0 ∨ r = .error x := by
  unfold withoutKind at h
  split at h
  · exact .inr h
  · exact .inl ‹_›

/-- A rejected word has a KIND or DATA that R73 does not allow, and so is illegal (30_encoding.md R74). -/
theorem illegalWord_of_decodeEvent_error {e : EventWord} {x : Reject} (h : decodeEvent e = .error x) :
    illegalWord e := by
  rw [illegalWord_iff]
  unfold decodeEvent at h
  split at h
  case h_1 hop | h_3 hop | h_4 hop =>
    rcases kind_ne_zero_of_withoutKind_error h with hkind | hdata
    · exact .inr (.inl ⟨hkind, by simp [hop]⟩)
    · exact .inr (.inr (.inr ⟨data_ne_zero_of_withoutData_error hdata, by simp [hop]⟩))
  case h_2 hop =>
    rcases kind_ne_zero_of_withoutKind_error h with hkind | hok
    · exact .inr (.inl ⟨hkind, by simp [hop]⟩)
    · cases hok
  case h_5 hop => exact .inr (.inr (.inr ⟨data_ne_zero_of_withoutData_error h, by simp [hop]⟩))
  all_goals cases h

/-- The word of a reserved row has OP 5 or more (30_encoding.md R73). -/
theorem illegalWord_of_reserved {i : Instr} {e : EventWord} (hi : reserved i) (he : encode i = .event e) :
    illegalWord e := by
  rw [illegalWord_iff]
  left
  obtain ⟨kind, data, hi⟩ := hi
  simp only [List.mem_cons, List.not_mem_nil, or_false] at hi
  rcases hi with rfl | rfl | rfl | rfl | rfl | rfl | rfl | rfl | rfl | rfl | rfl <;> cases he <;> simp

/-- The words of the rows that refine ENCODE are legal. -/
theorem not_illegalWord_of_encRow {k : Kind} {e : EventWord} (he : encode (encRow k) = .event e) :
    ¬ illegalWord e := by
  rw [illegalWord_iff]
  cases k <;> cases he <;> decide

/-- Of the words that decode, exactly the illegal ones give an illegal row (30_encoding.md R74; log 5). -/
theorem illegalRow_iff_of_decodeEvent {e : EventWord} {i : Instr} (h : decodeEvent e = .ok i) :
    illegalRow i ↔ illegalWord e := by
  obtain ⟨hw, he⟩ := wellFormed_encode_of_decodeEvent defaultRegistry h
  rcases instr_cases i with ⟨b, rfl⟩ | rfl | rfl | rfl | ⟨k, rfl⟩ | ⟨kind, rfl⟩ | hi | ⟨k, f, rfl⟩
  iterate 4
    · cases he
      simp [illegalRow, reserved, illegalWord_iff]
  · refine iff_of_false ?_ (not_illegalWord_of_encRow he)
    cases k <;> simp [illegalRow, reserved, encRow]
  · have hkind : 12 ≤ kind.toNat := by simpa [WellFormed] using hw
    cases he
    exact iff_of_true (.inr ⟨kind, rfl, hkind⟩) (illegalWord_iff.2 (by simp [hkind]))
  · exact iff_of_true (.inl hi) (illegalWord_of_reserved hi he)
  · exact absurd h (decodeEvent_ne_decodeRow e k f)

/-- An illegal word is an illegal event, whether it is rejected or decodes to an illegal row (60_exceptions.md R305). -/
theorem runEvent_of_illegalWord {e : EventWord} (h : illegalWord e) (s : State) :
    runEvent e s = .next s.illegalEvent := by
  unfold runEvent
  split
  · rfl
  · next i hi => exact exec_of_illegalRow ((illegalRow_iff_of_decodeEvent hi).2 h) s

/-- A legal word writes no fault. -/
theorem runEvent_fault_of_not_illegalWord {e : EventWord} {s t : State} (he : ¬ illegalWord e)
    (h : runEvent e s = .next t) : t.fault = s.fault := by
  obtain ⟨⟨x, hx⟩, -⟩ | ⟨i, hi, hexec⟩ := runEvent_cases h
  · exact absurd (illegalWord_of_decodeEvent_error hx) he
  · exact exec_fault_of_not_illegalRow (fun hill => he ((illegalRow_iff_of_decodeEvent hi).1 hill)) hexec

/-- A step with an event presented runs the event word (30_encoding.md R72). -/
theorem step_of_event {s : State} {p : Presentation} {rest : List Presentation} (hlegal : s.registry.legal = true)
    (hin : s.input = p :: rest) (hrst : p.rst = false) :
    step s = runEvent p.ev { s with input := rest, opnd := p.opnd } := by
  simp [step, fetchAndRun, hlegal, State.take_event hin hrst]

/-- Settles O5: the step runs the event word, and illegal and legal words have a lemma each. -/
theorem illegalWordsRaiseTheFault : Obligations.IllegalWordsRaiseTheFault := by
  intro s p rest hlegal hin hrst
  rw [step_of_event hlegal hin hrst]
  exact ⟨fun hill => runEvent_of_illegalWord hill _, fun hleg t h =>
    runEvent_fault_of_not_illegalWord (s := { s with input := rest, opnd := p.opnd }) hleg h⟩

end Sys2Proof

/-! ### The kinds delivered raw -/

namespace Sys2Proof.Machine

/-- RX_MALFORMED where one of the kinds is a candidate and no candidate matches (41_dispatcher.md R123). -/
theorem classifyAmong_eq_malformed {r : Registry} {ks : List Kind} {f : Frame} {k : Kind} (hk : k ∈ ks)
    (hc : r.isCandidate f k = true) (hm : ∀ j ∈ ks, r.isCandidate f j = true → matchKind r j f = false) :
    classifyAmong r ks f = .malformed := by
  unfold classifyAmong
  split
  · next hnil => exact absurd hc (List.filter_eq_nil_iff.1 hnil k hk)
  · next k' cands hcands =>
    refine firstMatch_eq_malformed.2 fun j hj => ?_
    obtain ⟨hjks, hjc⟩ := List.mem_filter.1 (hcands ▸ hj)
    exact hm j hjks hjc

/-- A decode row whose kind is a candidate, where no candidate from it on matches, reports RX_MALFORMED (41_dispatcher.md
R123; log 6). -/
theorem exec_decodeRow_of_no_match {s : State} {k : Kind} {f : Frame} (h : s.registry.legal = true)
    (hc : s.registry.isCandidate f k = true)
    (hm : ∀ j, k.id ≤ j.id → s.registry.isCandidate f j = true → matchKind s.registry j f = false) :
    exec (decodeRow k f) s = .next { s with rx := .malformed f, tx := .none, diag := 0 } := by
  rw [exec_decodeRow, classifyInto_of_legal h, classifyAmong_eq_malformed (Kind.mem_fromOn.2 le_rfl) hc
    fun j hj => hm j (Kind.mem_fromOn.1 hj)]
  rfl

/-- The kinds without a payload layout: their decoders read nothing of the payload (43_codecs.md R186, R188, R193, R197). -/
def rawRecord : Kind → Option (Nibble → List Byte → Fields)
  | .calibration => some .calibration
  | .deadband => some .deadband
  | .ccWarnings => some .ccWarnings
  | .apWindStatus => some .apWindStatus
  | _ => none

theorem decodeKind_of_rawRecord {k : Kind} {record : Nibble → List Byte → Fields} (h : rawRecord k = some record)
    (r : Registry) (c a : Byte) (payload : List Byte) :
    decodeKind r k (c :: a :: payload) = some (record (BitVec.ofNat 4 (a.toNat / 16)) payload, 0) := by
  rw [← auxnib_eq]
  cases k <;> cases h <;> rfl

/-- The row of a kind without a payload layout delivers the auxiliary nibble and the raw payload. -/
theorem exec_decodeRow_of_rawRecord {s : State} {k : Kind} {record : Nibble → List Byte → Fields} {a : Byte}
    {payload : List Byte} (hk : rawRecord k = some record) (h : s.registry.legal = true)
    (hl : (s.registry.cmd k :: a :: payload).length = s.registry.len k)
    (hm : matchKind s.registry k (s.registry.cmd k :: a :: payload) = true) :
    exec (decodeRow k (s.registry.cmd k :: a :: payload)) s = .next { s with
      rx := .message (record (BitVec.ofNat 4 (a.toNat / 16)) payload) (s.registry.cmd k :: a :: payload)
      tx := .none, diag := 0 } :=
  exec_decodeRow_of_match h rfl hl hm (decodeKind_of_rawRecord hk _ _ _ _)

/-- Settles O28: each of the four kinds delivers its payload raw; only CC_WARNINGS, whose predicate is OPEN, splits on its
value. -/
theorem rawPayloadKindsDeliver : Obligations.RawPayloadKindsDeliver := by
  refine ⟨⟨rfl, rfl, rfl⟩, fun r f => ⟨?_, ?_, ?_⟩, fun s a payload h => ⟨?_, ?_, ?_, ?_⟩⟩
  · intro hp
    simp [matchKind, matchCalibration, hp]
  · intro hp
    simp [matchKind, matchDeadband, hp]
  · intro hp
    simp [matchKind, matchApWindStatus, hp]
  · rintro f rfl hl hm
    exact exec_decodeRow_of_rawRecord (k := .calibration) rfl h hl hm
  · rintro f rfl hl hm
    exact exec_decodeRow_of_rawRecord (k := .deadband) rfl h hl hm
  · rintro f rfl hl hap
    cases hm : Config.matchCcw (s.registry.cmdCcWarnings :: a :: payload) with
    | true => exact exec_decodeRow_of_rawRecord (k := .ccWarnings) rfl h hl hm
    | false =>
      refine exec_decodeRow_of_no_match (k := .ccWarnings) h (Registry.isCandidate_iff.2 ⟨rfl, hl⟩) fun j hj hc => ?_
      obtain rfl | rfl : j = .ccWarnings ∨ j = .apWindStatus := by
        revert hj
        cases j <;> decide
      · exact hm
      · simp [hap] at hc
  · rintro b rfl hm
    exact exec_decodeRow_of_rawRecord (k := .apWindStatus) rfl h rfl hm

end Sys2Proof.Machine

/-! ### What the Frame Assembler's events leave -/

namespace Sys2Proof

open Sys2Proof.Machine

/-- The word of BYTE_IN as a number: DATA in bits 15:8, OP 1 (30_encoding.md R73). -/
theorem eventWord_byteIn (b : Byte) : eventWord 1 0 b = BitVec.ofNat 16 (b.toNat * 256 + 1) :=
  BitVec.eq_of_toNat_eq (by rw [eventWord_toNat, BitVec.toNat_ofNat]; simp; omega)

theorem decodeEvent_byteIn (b : Byte) :
    decodeEvent (BitVec.ofNat 16 (b.toNat * 256 + 1)) = .ok (.byteIn b) := by
  rw [← eventWord_byteIn]
  exact decodeEncodeAgree defaultRegistry (.byteIn b) rfl

end Sys2Proof

namespace Sys2Proof.Machine

open Sys2Proof.Claims

/-! ### FA_COUNT in each FA_STATE -/

theorem State.countInv_of_sCmd {s : State} (hs : s.faState = .sCmd) : s.countInv ↔ s.faCount = 0 := by
  simp [State.countInv, hs]

theorem State.countInv_of_sAttr {s : State} (hs : s.faState = .sAttr) : s.countInv ↔ s.faCount = 1 := by
  simp [State.countInv, hs]

theorem State.countInv_of_sPayload {s : State} (hs : s.faState = .sPayload) :
    s.countInv ↔ 2 ≤ s.faCount.toNat ∧ s.faCount.toNat < s.faLen.toNat ∧ s.faLen.toNat ≤ 18 := by
  simp [State.countInv, hs]

/-! ### Reads of BUF after an event -/

/-- Where no byte is held, no address has a value (20_memory.md R43). -/
theorem State.bufRead_of_faCount_zero {s : State} (h : s.faCount = 0) (a : Nat) :
    s.bufRead a = .error .bufNoValue := by
  simp [State.bufRead, h]

/-- A stored byte is read back at its address, once FA_COUNT covers it. -/
theorem State.bufRead_stored {s t : State} {i : Nat} {b : Byte} (hbuf : t.buf = s.buf.write i b)
    (hi : i < t.faCount.toNat) : t.bufRead i = .ok b := by
  simp [State.bufRead, hi, hbuf, Memory.read_write_same]

/-- A store leaves the bytes held at other addresses as they were. -/
theorem State.bufRead_held {s t : State} {i a : Nat} {b : Byte} (hbuf : t.buf = s.buf.write i b) (hne : a ≠ i)
    (hs : a < s.faCount.toNat) (ht : a < t.faCount.toNat) : t.bufRead a = s.bufRead a := by
  simp [State.bufRead, hs, ht, hbuf, Memory.read_write_other _ _ hne]

/-! ### What presenting a classification leaves -/

@[simp] theorem State.present_faState (s : State) (f : Frame) (rep : Report) :
    (s.present f rep).faState = s.faState := by
  cases rep <;> rfl

@[simp] theorem State.present_faCount (s : State) (f : Frame) (rep : Report) :
    (s.present f rep).faCount = s.faCount := by
  cases rep <;> rfl

@[simp] theorem State.present_opnd (s : State) (f : Frame) (rep : Report) : (s.present f rep).opnd = s.opnd := by
  cases rep <;> rfl

@[simp] theorem State.present_input (s : State) (f : Frame) (rep : Report) : (s.present f rep).input = s.input := by
  cases rep <;> rfl

/-- A classification that is presented shows (41_dispatcher.md R120): the helper-domain fault does not occur. -/
theorem showsReport_present_classify (s : State) (r : Registry) (f : Frame) :
    showsReport (s.present f (classify r f)) f (classify r f) := by
  have hne : classify r f ≠ .helperDomain := classifyAmong_ne_helperDomain r Kind.all f
  cases h : classify r f with
  | unknown => exact ⟨rfl, rfl⟩
  | malformed => exact ⟨rfl, rfl⟩
  | message fields diag => exact ⟨rfl, rfl⟩
  | helperDomain => exact absurd h hne

/-! ### BYTE_IN -/

/-- BYTE_IN never stops in a state that meets the invariant. -/
theorem State.Inv.exists_byteIn {s : State} (h : s.Inv) (b : Byte) : ∃ t, exec (.byteIn b) s = .next t := by
  cases hs : s.faState with
  | sCmd => exact ⟨_, execByteIn_sCmd hs b⟩
  | sAttr => exact ⟨_, execByteIn_sAttr hs b⟩
  | sPayload =>
    by_cases hl : s.faCount.toNat + 1 = s.faLen.toNat
    · obtain ⟨held, -, -, -, -, ht⟩ := execByteIn_completes h hs hl b
      exact ⟨_, ht⟩
    · have hle := h.faCount_le
      exact ⟨_, execByteIn_sPayload_more hs (by omega) hl b⟩

/-- BYTE_IN writes neither port. -/
theorem execByteIn_ports {b : Byte} {s t : State} (h : exec (.byteIn b) s = .next t) :
    t.opnd = s.opnd ∧ t.input = s.input := by
  obtain ⟨-, rfl⟩ | ⟨-, rfl⟩ | ⟨-, -, -, rfl⟩ | ⟨-, -, -, f, rfl⟩ := execByteIn_cases h
  · exact ⟨rfl, rfl⟩
  · exact ⟨rfl, rfl⟩
  · exact ⟨rfl, rfl⟩
  · simp

/-- Counting one more byte does not overflow FA_COUNT (10_state.md R22). -/
theorem State.Inv.faCount_succ_toNat {s : State} (h : s.Inv) : (s.faCount + 1).toNat = s.faCount.toNat + 1 := by
  have hle := h.faCount_le
  bv_omega

/-- The byte that completes a frame leaves a frame boundary, no byte held, and the frame's classification shown
(40_frame_assembler.md R103). -/
theorem State.Inv.byteIn_completes {s t : State} (h : s.Inv) (hs : s.faState = .sPayload)
    (hl : s.faCount.toNat + 1 = s.faLen.toNat) {b : Byte} (ht : exec (.byteIn b) s = .next t) :
    ∃ held, s.bufReadPrefix s.faCount.toNat = .ok held ∧ (held ++ [b]).length = s.faLen.toNat ∧
      t.faState = .sCmd ∧ t.faCount = 0 ∧ (∀ a, t.bufRead a = .error .bufNoValue) ∧
      showsReport t (held ++ [b]) (classify s.registry (held ++ [b])) := by
  obtain ⟨held, hr, hlen, -, -, hx⟩ := execByteIn_completes h hs hl b
  cases hx.symm.trans ht
  exact ⟨held, hr, hlen, by simp, by simp, State.bufRead_of_faCount_zero (by simp),
    showsReport_present_classify _ _ _⟩

/-- Settles O12: BYTE_IN answers a next state, and each FA_STATE has its equation; in S_PAYLOAD the byte goes on or
completes the frame. -/
theorem byteInAssemblesFrames : Obligations.ByteInAssemblesFrames := by
  refine ⟨decodeEvent_byteIn, fun s b h => ?_⟩
  obtain ⟨t, ht⟩ := h.exists_byteIn b
  obtain ⟨hfault, htx⟩ := execByteIn_fault_tx ht
  obtain ⟨hopnd, hinput⟩ := execByteIn_ports ht
  refine ⟨t, ht, htx, hfault, execByteIn_registry ht, hopnd, hinput, fun hs => ?_, fun hs => ?_, fun hs hl => ?_,
    fun hs hl => h.byteIn_completes hs hl ht⟩
  · cases (execByteIn_sCmd hs b).symm.trans ht
    exact ⟨rfl, rfl, rfl, State.bufRead_stored rfl Nat.one_pos, rfl, rfl⟩
  · have hcount := (State.countInv_of_sAttr hs).1 h.count
    cases (execByteIn_sAttr hs b).symm.trans ht
    exact ⟨rfl, rfl, framelen_toNat b, State.bufRead_held rfl Nat.zero_ne_one (by simp [hcount]) Nat.two_pos,
      State.bufRead_stored rfl Nat.one_lt_two, rfl, rfl⟩
  · have hsucc := h.faCount_succ_toNat
    have hle := h.faCount_le
    cases (execByteIn_sPayload_more hs (by omega) hl b).symm.trans ht
    exact ⟨hs, hsucc, rfl, fun a ha => State.bufRead_held rfl ha.ne ha (hsucc ▸ Nat.lt_succ_of_lt ha),
      State.bufRead_stored rfl (hsucc ▸ Nat.lt_succ_self _), rfl, rfl⟩

/-! ### NOP, SOURCE_CLOSED and CANCEL -/

/-- Settles O11: the word decodes to NOP, whose meaning is the defaults of R100. -/
theorem nopWritesDefaultsOnly : Obligations.NopWritesDefaultsOnly := ⟨rfl, fun _ => rfl⟩

/-- SOURCE_CLOSED at a frame boundary. -/
theorem exec_sourceClosed_of_sCmd {s : State} (h : s.faState = .sCmd) :
    exec .sourceClosed s = .next (s.presentRx .none 0) := by
  simp [exec, execSourceClosed, h]

/-- SOURCE_CLOSED inside a frame. -/
theorem exec_sourceClosed_of_ne {s : State} (h : s.faState ≠ .sCmd) :
    exec .sourceClosed s = .next (s.dropFrame.presentRx (.framingError s.faCount) 0) := by
  cases hs : s.faState with
  | sCmd => exact absurd hs h
  | sAttr => simp [exec, execSourceClosed, hs]
  | sPayload => simp [exec, execSourceClosed, hs]

/-- Settles O13: one equation at a frame boundary and one inside a frame, where FA_COUNT is the number of bytes
discarded. -/
theorem sourceClosedDropsPartialFrame : Obligations.SourceClosedDropsPartialFrame := by
  refine ⟨rfl, fun s => ⟨exec_sourceClosed_of_sCmd, fun hne => ⟨_, exec_sourceClosed_of_ne hne, rfl, rfl, rfl, rfl, rfl,
    State.bufRead_of_faCount_zero rfl, rfl, rfl, rfl, rfl, fun hc hs => ?_, fun hc hs => ?_⟩⟩⟩
  · simp [(State.countInv_of_sAttr hs).1 hc]
  · obtain ⟨h2, hlt, -⟩ := (State.countInv_of_sPayload hs).1 hc
    omega

/-- Settles O14: CANCEL has one equation for every FA_STATE, and FA_COUNT is 0 in S_CMD. -/
theorem cancelDropsPartialFrame : Obligations.CancelDropsPartialFrame := by
  refine ⟨rfl, fun s => ⟨s.dropFrame.presentRx (.cancelled s.faCount) 0, rfl, rfl, rfl, rfl, rfl, rfl,
    State.bufRead_of_faCount_zero rfl, rfl, rfl, rfl, rfl, fun hc hs => ?_⟩⟩
  simp [(State.countInv_of_sCmd hs).1 hc]

end Sys2Proof.Machine

/-! ### The classification of a completed frame -/

namespace Sys2Proof.Machine

open Sys2Proof.Claims

/-- Where one of the kinds is a candidate, the candidates are tried in order (41_dispatcher.md R120). -/
theorem classifyAmong_of_mem {r : Registry} {ks : List Kind} {f : Frame} {k : Kind} (hk : k ∈ ks)
    (hc : r.isCandidate f k = true) : classifyAmong r ks f = firstMatch r f (ks.filter (r.isCandidate f)) := by
  have hne : ks.filter (r.isCandidate f) ≠ [] := List.ne_nil_of_mem (List.mem_filter.2 ⟨hk, hc⟩)
  unfold classifyAmong
  split
  · next hnil => exact absurd hnil hne
  · next hcands => rw [hcands]

/-- RX_UNKNOWN exactly where no kind is a candidate (41_dispatcher.md R122). -/
theorem classify_eq_unknown_iff {r : Registry} {f : Frame} :
    classify r f = .unknown ↔ ∀ k, r.isCandidate f k = false :=
  classifyAmong_eq_unknown.trans ⟨fun h k => h k (Kind.mem_all k), fun h k _ => h k⟩

/-- RX_MALFORMED exactly where there are candidates and none matches (41_dispatcher.md R123). -/
theorem classify_eq_malformed_iff {r : Registry} {f : Frame} :
    classify r f = .malformed ↔
      (∃ k, r.isCandidate f k = true) ∧ ∀ k, r.isCandidate f k = true → matchKind r k f = false := by
  constructor
  · intro h
    have hcand : ∃ k, r.isCandidate f k = true := by
      by_contra hnone
      have hunknown : classify r f = .unknown := classify_eq_unknown_iff.2 (by simpa using hnone)
      cases h.symm.trans hunknown
    refine ⟨hcand, fun k hc => ?_⟩
    rw [classify, classifyAmong_of_mem (Kind.mem_all k) hc] at h
    exact firstMatch_eq_malformed.1 h k (List.mem_filter.2 ⟨Kind.mem_all k, hc⟩)
  · rintro ⟨⟨k, hc⟩, hm⟩
    exact classifyAmong_eq_malformed (Kind.mem_all k) hc fun j _ => hm j

/-- The kinds before k in the registration order have the lower ids (41_dispatcher.md R121). -/
theorem Kind.mem_take_id {k j : Kind} : j ∈ Kind.all.take k.id ↔ j.id < k.id := by
  cases k <;> cases j <;> decide

/-- k stands at its id in the registration order. -/
theorem Kind.all_eq_take_append (k : Kind) :
    Kind.all = Kind.all.take k.id ++ k :: Kind.all.drop (k.id + 1) := by
  cases k <;> rfl

/-- The first candidate that matches, in ascending kind id, is decoded (41_dispatcher.md R121). -/
theorem classify_of_first {r : Registry} {f : Frame} {k : Kind} {d : Decoded} (hc : r.isCandidate f k = true)
    (hm : matchKind r k f = true) (hd : decodeKind r k f = some d)
    (hfirst : ∀ j, j.id < k.id → r.isCandidate f j = true → matchKind r j f = false) :
    classify r f = .message d.1 d.2 := by
  rw [classify, classifyAmong_of_mem (Kind.mem_all k) hc, Kind.all_eq_take_append k, List.filter_append,
    List.filter_cons_of_pos hc]
  refine firstMatch_of_first (fun j hj => ?_) hm hd
  obtain ⟨hlt, hjc⟩ := List.mem_filter.1 hj
  exact hfirst j (Kind.mem_take_id.1 hlt) hjc

/-- A decoder's record is of its own kind (10_state.md R25). -/
theorem decodeKind_kind {r : Registry} {k : Kind} {f : Frame} {d : Decoded} (h : decodeKind r k f = some d) :
    d.1.kind = k := by
  cases k
  case headingCourse =>
    obtain ⟨_, -, rfl⟩ := Option.map_eq_some_iff.1 h
    rfl
  all_goals
    cases h
    rfl

/-! ### What RX shows -/

/-- Of the reports, only no candidate shows as RX_UNKNOWN, and only candidates without a match as RX_MALFORMED
(41_dispatcher.md R122, R123). -/
theorem rx_iff_of_showsReport {t : State} {f : Frame} {rep : Report} (h : showsReport t f rep) :
    (t.rx = .unknown f ↔ rep = .unknown) ∧ (t.rx = .malformed f ↔ rep = .malformed) := by
  cases rep with
  | unknown | malformed | message => simp [h.1]
  | helperDomain => exact h.elim

/-- The byte that completes a frame shows the frame's classification (40_frame_assembler.md R103). -/
theorem showsReport_of_completes {s t : State} {b : Byte} {f : Frame} (h : completes s t b f) :
    showsReport t f (classify s.registry f) := by
  obtain ⟨hinv, hs, hl, ⟨held, hr, rfl⟩, hx⟩ := h
  obtain ⟨held', hr', -, -, -, -, hshow⟩ := hinv.byteIn_completes hs hl hx
  cases hr.symm.trans hr'
  exact hshow

/-- Settles O16: the state shows the classification, which is the record and DIAG of the first candidate that
matches. -/
theorem firstMatchingCandidateWins : Obligations.FirstMatchingCandidateWins := by
  intro s t b f k h hcmd hlen hm hfirst
  obtain ⟨⟨fields, diag⟩, hd⟩ := Option.isSome_iff_exists.1 (decodeKind_isSome s.registry k f)
  have hclass : classify s.registry f = .message fields diag :=
    classify_of_first (Registry.isCandidate_iff.2 ⟨hcmd, hlen⟩) hm hd fun j hj hc =>
      hfirst j hj (Registry.isCandidate_iff.1 hc).1 (Registry.isCandidate_iff.1 hc).2
  have hshow := showsReport_of_completes h
  rw [hclass] at hshow
  obtain ⟨hrx, hdiag⟩ := hshow
  exact ⟨fields, diag, hd, decodeKind_kind hd, hrx, hdiag⟩

/-- Settles O17: the state shows the classification, which is RX_UNKNOWN exactly without a candidate. -/
theorem unknownExactlyWithoutCandidates : Obligations.UnknownExactlyWithoutCandidates := by
  intro s t b f h
  rw [(rx_iff_of_showsReport (showsReport_of_completes h)).1, classify_eq_unknown_iff]
  simp only [← Registry.isCandidate_iff, Bool.not_eq_true]

/-- Settles O18: the state shows the classification, which is RX_MALFORMED exactly where candidates exist and none
matches. -/
theorem malformedExactlyWhenNoneMatches : Obligations.MalformedExactlyWhenNoneMatches := by
  intro s t b f h
  rw [(rx_iff_of_showsReport (showsReport_of_completes h)).2, classify_eq_malformed_iff]
  simp only [Registry.isCandidate_iff, and_imp]

end Sys2Proof.Machine

/-! ### DECODE.HEADING_COURSE -/

namespace Sys2Proof.Machine

open Sys2Proof.Claims

/-- HEADING read from the attribute byte: BITCOUNT2 counts its bits 7 and 6, and its bits 5 and 4 are the quadrant
(42_bit_helpers.md R140, R145). -/
theorem heading_auxnib_eq (a vw : Byte) : ∃ h, heading (auxnib a) vw = some h ∧
    h.toNat = a.toNat / 16 % 4 * 90 + vw.toNat % 64 * 2 + (a.toNat / 64 % 2 + a.toNat / 128) := by
  obtain ⟨h, hh, hv⟩ := heading_eq (auxnib a) vw
  have hu : (auxnib a).toNat = a.toNat / 16 := by
    rw [auxnib_eq, BitVec.toNat_ofNat]
    omega
  refine ⟨h, hh, hv.trans ?_⟩
  rw [hu, Nat.div_div_eq_div_mul, Nat.div_div_eq_div_mul]

/-- Where HEADING has a value, the decoder delivers it with the course and the tail (43_codecs.md R162). -/
theorem decodeKind_headingCourse_of_heading {a vw : Byte} {h : BitVec 9} (hh : heading (auxnib a) vw = some h)
    (r : Registry) (c x : Byte) (tail : List Byte) :
    decodeKind r .headingCourse (c :: a :: vw :: x :: tail) = some (.headingCourse h (coursehalf vw x) tail, 0) :=
  Option.map_eq_some_iff.2 ⟨h, hh, rfl⟩

/-- Settles O22: the row delivers its decoder's record, whose heading and course have exact formulas. -/
theorem decodeHeadingCourseDelivers : Obligations.DecodeHeadingCourseDelivers := by
  intro s a vw x tail hr hl
  obtain ⟨h, hh, hv⟩ := heading_auxnib_eq a vw
  exact ⟨h, coursehalf vw x, hv, coursehalf_toNat vw x, exec_decodeRow_of_match (k := .headingCourse)
    (f := _ :: a :: vw :: x :: tail) hr rfl hl rfl (decodeKind_headingCourse_of_heading hh ..)⟩

end Sys2Proof.Machine

/-! ### Decode rows of two-byte numbers -/

namespace Sys2Proof.Machine

open Sys2Proof.Claims

/-- The row of a kind that takes every frame, and whose record is U16BE of the two payload bytes, delivers it
(42_bit_helpers.md R143). -/
theorem exec_decodeRow_of_u16be {s : State} {k : Kind} {record : BitVec 16 → Nibble → Fields}
    (h : s.registry.legal = true) (hlen : s.registry.len k = 4) (hm : ∀ f, matchKind s.registry k f = true)
    (hd : ∀ f, decodeKind s.registry k f = some (record (u16be (byteAt f 2) (byteAt f 3)) (auxnib (byteAt f 1)), 0))
    (a hi lo : Byte) :
    exec (decodeRow k [s.registry.cmd k, a, hi, lo]) s = .next { s with
      rx := .message (record (BitVec.ofNat 16 (hi.toNat * 256 + lo.toNat)) (BitVec.ofNat 4 (a.toNat / 16)))
        [s.registry.cmd k, a, hi, lo]
      tx := .none, diag := 0 } := by
  rw [← u16be_eq, ← auxnib_eq]
  exact exec_decodeRow_of_match (f := [_, a, hi, lo]) h rfl hlen.symm (hm _) (hd _)

/-- Settles O23: WIND_ANGLE is a kind of one two-byte number that takes every frame. -/
theorem decodeWindAngleDelivers : Obligations.DecodeWindAngleDelivers := fun _ a hi lo h =>
  exec_decodeRow_of_u16be (k := .windAngle) h rfl (fun _ => rfl) (fun _ => rfl) a hi lo

/-- Settles O30: STW is a kind of one two-byte number that takes every frame. -/
theorem decodeStwDelivers : Obligations.DecodeStwDelivers := fun _ a hi lo h =>
  exec_decodeRow_of_u16be (k := .stw) h rfl (fun _ => rfl) (fun _ => rfl) a hi lo

/-! ### DECODE.WIND_SPEED -/

/-- The unit bit is set from 128 on (43_codecs.md R168). -/
theorem unitBit_eq (n : Byte) : n.getLsbD 7 = decide (128 ≤ n.toNat) := BitVec.msb_eq_decide n

/-- The speed of the low seven bits of f[2], and f[3] (43_codecs.md R168). -/
theorem speedTenths_eq (n v : Byte) :
    (n &&& 0x7F).setWidth 11 * 10 + v.setWidth 11 = BitVec.ofNat 11 (n.toNat % 128 * 10 + v.toNat) := by
  have hn : (n &&& 0x7F).toNat = n.toNat % 128 := Nat.and_two_pow_sub_one_eq_mod n.toNat 7
  apply BitVec.eq_of_toNat_eq
  rw [BitVec.toNat_add, BitVec.toNat_mul, BitVec.toNat_setWidth, hn]
  simp

theorem decodeKind_windSpeed (r : Registry) (c a n v : Byte) :
    decodeKind r .windSpeed [c, a, n, v] = some (.windSpeed (decide (128 ≤ n.toNat))
      (BitVec.ofNat 11 (n.toNat % 128 * 10 + v.toNat)) (BitVec.ofNat 4 (a.toNat / 16)), 0) := by
  rw [← unitBit_eq, ← speedTenths_eq, ← auxnib_eq]
  rfl

/-- A wind-speed frame matches where its tenths byte is at most 9 (43_codecs.md R167). -/
theorem matchWindSpeed_iff {c a n v : Byte} : matchWindSpeed [c, a, n, v] = true ↔ v.toNat ≤ 9 :=
  decide_eq_true_iff

/-- A frame whose candidate refuses it, and no other candidate takes, completes as RX_MALFORMED (41_dispatcher.md
R123). -/
theorem malformed_of_completes {s t : State} {b : Byte} {f : Frame} {k : Kind} (h : completes s t b f)
    (hc : s.registry.isCandidate f k = true) (hm : matchKind s.registry k f = false)
    (hother : noOtherMatches s.registry k f) : t.rx = .malformed f ∧ t.diag = 0 := by
  have hclass : classify s.registry f = .malformed :=
    classify_eq_malformed_iff.2 ⟨⟨k, hc⟩, fun j hj => by
      by_cases hjk : j = k
      · exact hjk ▸ hm
      · exact hother j hjk hj⟩
  have hshow := showsReport_of_completes h
  rwa [hclass] at hshow

/-- Settles O24: a tenths byte to 9 matches and the row delivers its decoder's record; a greater one does not, and the
completed frame has no candidate that takes it. -/
theorem decodeWindSpeedDelivers : Obligations.DecodeWindSpeedDelivers := by
  constructor
  · intro s a n v h hv
    exact exec_decodeRow_of_match (k := .windSpeed) h rfl rfl (matchWindSpeed_iff.2 hv) (decodeKind_windSpeed ..)
  · intro a n v hv
    have hm : matchWindSpeed [0x11, a, n, v] = false :=
      Bool.eq_false_iff.2 fun h => absurd (matchWindSpeed_iff.1 h) (Nat.not_le.2 hv)
    exact ⟨hm, fun s t hc hother =>
      malformed_of_completes (k := .windSpeed) hc (Registry.isCandidate_iff.2 ⟨rfl, rfl⟩) hm hother⟩

/-! ### DECODE.KEYSTROKE -/

/-- The last two bytes of a frame. -/
theorem byteAt_trailing (front : List Byte) (x y : Byte) :
    byteAt (front ++ [x, y]) ((front ++ [x, y]).length - 2) = x ∧
      byteAt (front ++ [x, y]) ((front ++ [x, y]).length - 1) = y := by
  simp [byteAt]

/-- A keystroke frame matches where its last byte is the complement of the one before (43_codecs.md R171). -/
theorem matchKeystroke_iff {front : List Byte} {x y : Byte} :
    matchKeystroke (front ++ [x, y]) = true ↔ y = ~~~x := by
  obtain ⟨hx, hy⟩ := byteAt_trailing front x y
  rw [matchKeystroke, hx, hy, compl8_iff]

/-- The decoder reads the key next to the frame's end, and the bytes between the header and it (43_codecs.md R173). -/
theorem decodeKind_keystroke (r : Registry) (c a key nkey : Byte) (mid : List Byte) :
    decodeKind r .keystroke (c :: a :: mid ++ [key, nkey]) =
      some (.keystroke key (BitVec.ofNat 4 (a.toNat / 16)) mid, keystrokeDiag key) := by
  have hkey := (byteAt_trailing (c :: a :: mid) key nkey).1
  have hmid : ((c :: a :: mid ++ [key, nkey]).drop 2).take ((c :: a :: mid ++ [key, nkey]).length - 4) = mid := by
    simp
  rw [decodeKind, decodeKeystroke, hkey, hmid, ← auxnib_eq]
  rfl

/-- Settles O25: a key and its complement match, and the row delivers its decoder's record and DIAG. -/
theorem decodeKeystrokeDelivers : Obligations.DecodeKeystrokeDelivers := by
  intro s a key mid h hl
  refine exec_decodeRow_of_match (k := .keystroke) h rfl ?_ ?_ (decodeKind_keystroke ..)
  · simpa [Registry.len] using hl
  · exact matchKeystroke_iff (front := s.registry.cmdKeystroke :: a :: mid).2 rfl

/-! ### Encode rows -/

/-- An encode row writes its encoder's answer to TX, RX_NONE and DIAG 0, and nothing else (43_codecs.md R200). -/
theorem exec_encRow_of_encodeKind {s : State} {k : Kind} {tx : Tx} (h : encodeKind s.registry k s.opnd = tx) :
    exec (encRow k) s = .next { s with rx := .none, tx := tx, diag := 0 } := by
  rw [exec_encRow, h]
  rfl

theorem encodeWindAngle_of_le {o : Opnd} (h : o.angleHalf.toNat ≤ 719) :
    encodeWindAngle o = .frame [0x10, 0x01, BitVec.ofNat 8 (o.angleHalf.toNat / 256),
      BitVec.ofNat 8 (o.angleHalf.toNat % 256)] := by
  rw [encodeWindAngle, if_neg (Nat.not_lt.2 h), split16_eq]

/-- Settles O33: the encoder splits at 719, and the frame holds the angle's two bytes. -/
theorem encWindAngleAnswers : Obligations.EncWindAngleAnswers := fun _ =>
  ⟨fun h => exec_encRow_of_encodeKind (k := .windAngle) (if_pos h),
    fun h => exec_encRow_of_encodeKind (k := .windAngle) (encodeWindAngle_of_le h)⟩

/-- The knots byte of a speed to 1279 tenths, whose unit bit is 0 (43_codecs.md R170). -/
theorem knots_toNat {v : BitVec 11} (h : v.toNat ≤ 1279) :
    ((v / 10).setWidth 8).toNat = v.toNat / 10 ∧ ((v / 10).setWidth 8).getLsbD 7 = false := by
  have hv : ((v / 10).setWidth 8).toNat = v.toNat / 10 := by
    simp
    omega
  rw [unitBit_eq, hv, decide_eq_false_iff_not]
  omega

theorem encodeWindSpeed_of_le {o : Opnd} (h : o.windTenths.toNat ≤ 1279) :
    encodeWindSpeed o = .frame [0x11, 0x01, (o.windTenths / 10).setWidth 8,
      BitVec.ofNat 8 (o.windTenths.toNat % 10)] := by
  have hv : (o.windTenths % 10).setWidth 8 = BitVec.ofNat 8 (o.windTenths.toNat % 10) := by
    apply BitVec.eq_of_toNat_eq
    simp
  rw [encodeWindSpeed, if_neg (Nat.not_lt.2 h), hv]

/-- Settles O34: the encoder splits at 1279, and up to there the knots byte stays below the unit bit. -/
theorem encWindSpeedAnswers : Obligations.EncWindSpeedAnswers := fun _ =>
  ⟨fun h => exec_encRow_of_encodeKind (k := .windSpeed) (if_pos h), fun h =>
    ⟨_, (knots_toNat h).1, (knots_toNat h).2,
      exec_encRow_of_encodeKind (k := .windSpeed) (encodeWindSpeed_of_le h)⟩⟩

theorem encodeLamp_of_le {o : Opnd} (h : o.level.toNat ≤ 3) :
    encodeLamp o = .frame [0x30, 0x00, BitVec.ofNat 8 (o.level.toNat * 4)] := by
  have hv : o.level <<< 2 = BitVec.ofNat 8 (o.level.toNat * 4) := by
    apply BitVec.eq_of_toNat_eq
    simp [Nat.shiftLeft_eq]
  rw [encodeLamp, if_neg (Nat.not_lt.2 h), hv]

/-- Settles O37: the encoder splits at level 3, and the level byte is four times the level. -/
theorem encLampAnswers : Obligations.EncLampAnswers := fun _ =>
  ⟨fun h => exec_encRow_of_encodeKind (k := .lamp) (if_pos h),
    fun h => exec_encRow_of_encodeKind (k := .lamp) (encodeLamp_of_le h)⟩

/-- The speed's two bytes, most significant first, with no range check (43_codecs.md R196). -/
theorem encodeStw_eq (o : Opnd) :
    encodeStw o = .frame [0x20, 0x01, BitVec.ofNat 8 (o.stwTenths.toNat / 256),
      BitVec.ofNat 8 (o.stwTenths.toNat % 256)] := by
  rw [encodeStw, split16_eq]

/-- Settles O38: the encoder has no range check. -/
theorem encStwAnswers : Obligations.EncStwAnswers := fun s =>
  exec_encRow_of_encodeKind (k := .stw) (encodeStw_eq s.opnd)

/-- Settles O39: each of the five rows writes its encoder's answer, which is TX_UNSUPPORTED for every operand record. -/
theorem unsupportedEncodersSaySo : Obligations.UnsupportedEncodersSaySo := by
  intro s o i hi
  have hrow : ∃ k, i = encRow k ∧ encodeKind s.registry k o = .unsupported := by
    simp only [List.mem_cons, List.not_mem_nil, or_false] at hi
    rcases hi with rfl | rfl | rfl | rfl | rfl
    · exact ⟨.navToWaypoint, rfl, rfl⟩
    · exact ⟨.calibration, rfl, rfl⟩
    · exact ⟨.deadband, rfl, rfl⟩
    · exact ⟨.ccWarnings, rfl, rfl⟩
    · exact ⟨.apWindStatus, rfl, rfl⟩
  obtain ⟨k, rfl, hk⟩ := hrow
  exact exec_encRow_of_encodeKind (s := { s with opnd := o }) hk

end Sys2Proof.Machine

/-! ### No presentation stops the machine -/

namespace Sys2Proof.Machine

/-- SOURCE_CLOSED answers a next state, at a frame boundary and inside a frame. -/
theorem exists_exec_sourceClosed (s : State) : ∃ t, exec .sourceClosed s = .next t := by
  by_cases hs : s.faState = .sCmd
  · exact ⟨_, exec_sourceClosed_of_sCmd hs⟩
  · exact ⟨_, exec_sourceClosed_of_ne hs⟩

/-- ENCODE answers a next state, whether its KIND names a kind or not (43_codecs.md R200, 60_exceptions.md R305). -/
theorem exists_exec_encode (kind : Nibble) (s : State) : ∃ t, exec (.encode kind) s = .next t := by
  obtain ⟨k, hk, -⟩ | ⟨-, hle⟩ := Kind.ofId_cases kind
  · exact ⟨s.presentTx (encodeKind s.registry k s.opnd), by simp [exec, execEncode, hk]⟩
  · exact ⟨_, exec_of_illegalRow (.inr ⟨kind, rfl, hle⟩) s⟩

/-- Every instruction completes in a state that meets the invariant: BYTE_IN and the DECODE rows are the ones that could
stop (log 11, log 24), and the invariant excludes both. -/
theorem State.Inv.exists_exec {s : State} (h : s.Inv) (i : Instr) : ∃ t, exec i s = .next t := by
  rcases instr_cases i with ⟨b, rfl⟩ | rfl | rfl | rfl | ⟨k, rfl⟩ | ⟨kind, rfl⟩ | hi | ⟨k, f, rfl⟩
  · exact h.exists_byteIn b
  · exact exists_exec_sourceClosed s
  · exact ⟨_, rfl⟩
  · exact ⟨_, rfl⟩
  · exact ⟨_, exec_encRow k s⟩
  · exact exists_exec_encode kind s
  · exact ⟨_, exec_of_reserved hi s⟩
  · exact ⟨_, (exec_decodeRow k f s).trans (classifyInto_of_legal h.registry _ f)⟩

/-- Every event word completes: a rejected one as the illegal event, every other as its instruction. -/
theorem exists_runEvent {s : State} (h : s.Inv) (e : EventWord) : ∃ t, runEvent e s = .next t := by
  unfold runEvent
  split
  · exact ⟨_, rfl⟩
  · next i _ => exact h.exists_exec i

/-- A step with nothing presented (log 2). -/
theorem step_of_input_nil {s : State} (hlegal : s.registry.legal = true) (hin : s.input = []) :
    step s = .next s := by
  simp [step, fetchAndRun, hlegal, State.take, hin]

/-- A step with `rst` asserted ignores the event (60_exceptions.md R309). -/
theorem step_of_rst {s : State} {p : Presentation} {rest : List Presentation} (hlegal : s.registry.legal = true)
    (hin : s.input = p :: rest) (hrst : p.rst = true) :
    step s = .next (State.applyReset { s with input := rest }) := by
  simp [step, fetchAndRun, hlegal, State.take, hin, hrst]

/-- Settles O46: the registry is legal, so the step holds the state, resets, or runs the event word, and the ports have no
part in the invariant under which every event word completes. -/
theorem noPresentationStopsTheMachine : Obligations.NoPresentationStopsTheMachine := by
  intro s h
  cases hin : s.input with
  | nil => exact ⟨_, step_of_input_nil h.registry hin⟩
  | cons p rest =>
    cases hrst : p.rst with
    | true => exact ⟨_, step_of_rst h.registry hin hrst⟩
    | false =>
      rw [step_of_event h.registry hin hrst]
      exact exists_runEvent (h.withPorts p.opnd rest) p.ev

end Sys2Proof.Machine

/-! ### Reset -/

namespace Sys2Proof.Machine

/-- BYTE_IN at a frame boundary is the command byte, held at address 0 whatever BUF listed before
(40_frame_assembler.md R101). -/
theorem exec_byteIn_of_sCmd {s : State} (hs : s.faState = .sCmd) (b : Byte) :
    ∃ u, exec (.byteIn b) s = .next u ∧ u.faState = .sAttr ∧ u.faCount = 1 ∧ u.bufRead 0 = .ok b :=
  ⟨_, execByteIn_sCmd hs b, rfl, rfl, State.bufRead_stored rfl Nat.one_pos⟩

/-- Settles O8: the step is `applyReset` whatever the event word is, and it leaves a frame boundary, where the next
BYTE_IN is a command byte. -/
theorem resetStepGivesResetValues : Obligations.ResetStepGivesResetValues := by
  refine ⟨fun s p rest hlegal hin hrst => ?_, rfl, rfl, rfl, rfl, rfl, rfl, rfl⟩
  exact ⟨State.applyReset { s with input := rest }, step_of_rst hlegal hin hrst, rfl, rfl, rfl, rfl, rfl, rfl, rfl, rfl,
    rfl, exec_byteIn_of_sCmd rfl⟩

end Sys2Proof.Machine

/-! ### One step on a presentation -/

namespace Sys2Proof.Machine

open Sys2Proof.Claims

/-- Settles O6: a step with an event presented runs the event word, and a word that decodes runs its instruction. -/
theorem stepRunsDecodedEvent : Obligations.StepRunsDecodedEvent := by
  intro s p rest i hlegal hin hrst hdec
  rw [step_of_event hlegal hin hrst, runEvent, hdec]

/-- Settles O9: it is the step on an empty list of presentations. -/
theorem nothingPresentedHoldsTheState : Obligations.NothingPresentedHoldsTheState := fun _ => step_of_input_nil

/-- A step under an illegal registry (10_state.md R39; log 12). -/
theorem step_of_not_legal {s : State} (h : s.registry.legal ≠ true) : step s = .refused .illegalRegistry := by
  simp [step, fetchAndRun, h]

/-- Settles O10: each of the clauses contradicts what a legal registry says of its lengths. -/
theorem illegalRegistryIsRefused : Obligations.IllegalRegistryIsRefused := by
  intro s hbad
  refine step_of_not_legal fun hlegal => ?_
  have hlens := Registry.legal_iff.1 hlegal
  rcases hbad with h | h | h | ⟨k, hk⟩
  · omega
  · omega
  · omega
  · have hbounds := Registry.len_bounds hlegal k
    omega

/-- Settles O45: at reset no byte is held and no result is shown, and the default registry is legal. -/
theorem resetMeetsInvariant : Obligations.ResetMeetsInvariant where
  registry := by decide
  count := rfl
  buf := rfl
  length := nofun
  fault := iff_of_true rfl rfl
  rx := trivial
  tx := trivial

/-! ### Reading the partial frame -/

/-- The partial frame held in BUF, as BYTE_IN reads it when the frame completes (40_frame_assembler.md R103). -/
def State.holds (s : State) (held : List Byte) : Prop := s.bufReadPrefix s.faCount.toNat = .ok held

/-- The bytes read below an address are those of the single reads. -/
theorem State.bufReadPrefix_congr {s t : State} {n : Nat} (h : ∀ a < n, t.bufRead a = s.bufRead a) :
    t.bufReadPrefix n = s.bufReadPrefix n := by
  induction n with
  | zero => rfl
  | succ n ih =>
    have hprefix := ih fun a ha => h a (Nat.lt_succ_of_lt ha)
    simp only [State.bufReadPrefix, hprefix, h n (Nat.lt_succ_self n)]

theorem State.holds_nil {s : State} (h : s.faCount = 0) : s.holds [] := by
  rw [State.holds, h]
  rfl

theorem State.holds.withPorts {s : State} {held : List Byte} (h : s.holds held) (o : Opnd) (ps : List Presentation) :
    State.holds { s with input := ps, opnd := o } held :=
  (State.bufReadPrefix_congr (s := s) (t := { s with input := ps, opnd := o }) fun _ _ => rfl).trans h

/-- One more byte stored behind the bytes held is one more byte held. -/
theorem State.holds_append {s t : State} {held : List Byte} {b : Byte} (h : s.holds held)
    (hcount : t.faCount.toNat = s.faCount.toNat + 1) (hkeep : ∀ a < s.faCount.toNat, t.bufRead a = s.bufRead a)
    (hstore : t.bufRead s.faCount.toNat = .ok b) : t.holds (held ++ [b]) := by
  have hprefix := (State.bufReadPrefix_congr hkeep).trans h
  rw [State.holds, hcount, State.bufReadPrefix, hprefix, hstore]

/-! ### A frame fed byte by byte -/

/-- A whole frame is a command byte, an attribute byte, and as many more as the latter announces (30_encoding.md
R60). -/
theorem exists_cons_of_wholeFrame {f : Frame} (hw : wholeFrame f = true) :
    ∃ c a more, f = c :: a :: more ∧ more.length + 2 = a.toNat % 16 + 3 := by
  have hlen := (wholeFrame_length hw).1
  match f, hlen, hw with
  | c :: a :: more, _, hw => exact ⟨c, a, more, rfl, wholeFrame_cons.1 hw⟩

/-- The first of the presentations that deliver a frame is the BYTE_IN of its first byte. -/
theorem deliver_cons {b : Byte} {f : Frame} {ps : List Presentation} (h : deliver (b :: f) ps) :
    ∃ p ps', ps = p :: ps' ∧ p.rst = false ∧ p.ev = eventWord 1 0 b ∧ deliver f ps' := by
  obtain ⟨hev, hrst⟩ := h
  obtain ⟨p, ps', rfl, hp, hps⟩ := List.map_eq_cons_iff.1 hev
  exact ⟨p, ps', rfl, hrst p List.mem_cons_self, hp, hps, fun q hq => hrst q (List.mem_cons_of_mem p hq)⟩

/-- What every step that takes a BYTE_IN leaves, in every FA_STATE. -/
structure FedFrom (s t : State) (rest : List Presentation) : Prop where
  inv : t.Inv
  input : t.input = rest
  registry : t.registry = s.registry
  fault : t.fault = s.fault
  tx : t.tx = .none

theorem FedFrom.trans {s t u : State} {ps rest : List Presentation} (hst : FedFrom s t ps) (htu : FedFrom t u rest) :
    FedFrom s u rest :=
  ⟨htu.inv, htu.input, htu.registry.trans hst.registry, htu.fault.trans hst.fault, htu.tx⟩

/-- The step that takes a BYTE_IN, at each stage of a frame: the byte is held behind those before it, or completes the
frame, whose classification is then shown (40_frame_assembler.md R101 to R103). -/
theorem State.Inv.step_byteIn {s : State} (h : s.Inv) {b : Byte} {p : Presentation} {rest : List Presentation}
    (hin : s.input = p :: rest) (hrst : p.rst = false) (hev : p.ev = eventWord 1 0 b) {held : List Byte}
    (hheld : s.holds held) :
    ∃ t, step s = .next t ∧ FedFrom s t rest ∧
      (s.faState = .sCmd → t.faState = .sAttr ∧ t.holds (held ++ [b])) ∧
      (s.faState = .sAttr → t.faState = .sPayload ∧ t.faCount = 2 ∧ t.faLen.toNat = b.toNat % 16 + 3 ∧
        t.holds (held ++ [b])) ∧
      (s.faState = .sPayload → s.faCount.toNat + 1 ≠ s.faLen.toNat → t.faState = .sPayload ∧
        t.faCount.toNat = s.faCount.toNat + 1 ∧ t.faLen = s.faLen ∧ t.holds (held ++ [b])) ∧
      (s.faState = .sPayload → s.faCount.toNat + 1 = s.faLen.toNat → t.faState = .sCmd ∧
        showsReport t (held ++ [b]) (classify s.registry (held ++ [b]))) := by
  have hinv := h.withPorts p.opnd rest
  obtain ⟨t, ht, htx, hfault, hreg, -, hinput, hcmd, hattr, hmore, hlast⟩ := byteInAssemblesFrames.2 _ b hinv
  have hstep : step s = .next t :=
    (stepRunsDecodedEvent s p rest (.byteIn b) h.registry hin hrst
      (by rw [hev, eventWord_byteIn, decodeEvent_byteIn])).trans ht
  refine ⟨t, hstep, ⟨hinv.byteIn ht, hinput, hreg, hfault, htx⟩, fun hs => ?_, fun hs => ?_, fun hs hl => ?_,
    fun hs hl => ?_⟩
  · obtain ⟨hst, hc, -, hstore, -⟩ := hcmd hs
    have hzero := (State.countInv_of_sCmd hs).1 h.count
    refine ⟨hst, State.holds_append hheld (by simp [hc, hzero]) (by simp [hzero]) ?_⟩
    simpa [hzero] using hstore
  · obtain ⟨hst, hc, hlen, hkeep, hstore, -⟩ := hattr hs
    have hone := (State.countInv_of_sAttr hs).1 h.count
    refine ⟨hst, hc, hlen, State.holds_append hheld (by simp [hc, hone]) (fun a ha => ?_) ?_⟩
    · obtain rfl : a = 0 := by simpa [hone] using ha
      exact hkeep
    · simpa [hone] using hstore
  · obtain ⟨hst, hc, hlen, hkeep, hstore, -⟩ := hmore hs hl
    exact ⟨hst, hc, hlen, State.holds_append hheld hc hkeep hstore⟩
  · obtain ⟨held', hr, -, hst, -, -, hshow⟩ := hlast hs hl
    cases (hheld.withPorts p.opnd rest).symm.trans hr
    exact ⟨hst, hshow⟩

/-- The bytes that are missing of a partial frame, presented one by one, complete it. -/
theorem State.Inv.run_payload {more : List Byte} {s : State} {held : List Byte} {ps rest : List Presentation}
    (h : s.Inv) (hs : s.faState = .sPayload) (hheld : s.holds held)
    (hlen : s.faLen.toNat = s.faCount.toNat + more.length) (hps : deliver more ps) (hin : s.input = ps ++ rest) :
    ∃ t, core.run more.length s = .next t ∧ FedFrom s t rest ∧ t.faState = .sCmd ∧
      showsReport t (held ++ more) (classify s.registry (held ++ more)) := by
  induction more generalizing s held ps with
  | nil =>
    have hcount := (State.countInv_of_sPayload hs).1 h.count
    rw [List.length_nil] at hlen
    omega
  | cons b more ih =>
    obtain ⟨p, ps', rfl, hrst, hev, hps'⟩ := deliver_cons hps
    obtain ⟨t, hstep, hfed, -, -, hmore, hlast⟩ := h.step_byteIn hin hrst hev hheld
    rw [List.length_cons, run_succ hstep]
    rw [List.length_cons] at hlen
    by_cases hl : s.faCount.toNat + 1 = s.faLen.toNat
    · obtain rfl : more = [] := List.length_eq_zero_iff.1 (by omega)
      obtain rfl : ps' = [] := List.map_eq_nil_iff.1 hps'.1
      obtain ⟨hst, hshow⟩ := hlast hs hl
      exact ⟨t, rfl, hfed, hst, hshow⟩
    · obtain ⟨hst, hc, hlen', hheld'⟩ := hmore hs hl
      obtain ⟨u, hrun, hfed', hsu, hshow⟩ := ih hfed.inv hst hheld' (by rw [hlen']; omega) hps' hfed.input
      rw [hfed.registry, List.append_assoc, List.singleton_append] at hshow
      exact ⟨u, hrun, hfed.trans hfed', hsu, hshow⟩

/-- Settles O15: the command byte and the attribute byte are held, the latter announces how many bytes are missing, and
these complete the frame. -/
theorem frameFedByteByByteIsClassified : Obligations.FrameFedByteByByteIsClassified := by
  intro s f ps rest h hs hw hps hin
  obtain ⟨c, a, more, rfl, hmissing⟩ := exists_cons_of_wholeFrame hw
  obtain ⟨p, ps, rfl, hrst, hev, hps⟩ := deliver_cons hps
  obtain ⟨q, ps, rfl, hrst', hev', hps⟩ := deliver_cons hps
  have hnil := State.holds_nil ((State.countInv_of_sCmd hs).1 h.count)
  obtain ⟨t, hstep, hfed, hcmd, -⟩ := h.step_byteIn hin hrst hev hnil
  obtain ⟨hst, hheld⟩ := hcmd hs
  obtain ⟨u, hstep', hfed', -, hattr, -⟩ := hfed.inv.step_byteIn hfed.input hrst' hev' hheld
  obtain ⟨hsu, hcu, hlen, hheld'⟩ := hattr hst
  obtain ⟨v, hrun, hfed'', hsv, hshow⟩ :=
    hfed'.inv.run_payload hsu hheld' (by simp [hcu, hlen]; omega) hps hfed'.input
  have hall := (hfed.trans hfed').trans hfed''
  rw [hfed'.registry, hfed.registry] at hshow
  exact ⟨v, (run_succ hstep).trans ((run_succ hstep').trans hrun), hall.inv, hsv, hall.input, hall.registry,
    hall.fault, hall.tx, hshow⟩

end Sys2Proof.Machine

/-! ### A completing byte and the DECODE rows -/

namespace Sys2Proof.Machine

open Sys2Proof.Claims

/-- A whole frame that is no instruction has no candidate (30_encoding.md R63). -/
theorem isCandidate_eq_false_of_decodeFrame_error {r : Registry} {f : Frame} {e : Reject} (hw : wholeFrame f = true)
    (h : decodeFrame r f = .error e) (k : Kind) : r.isCandidate f k = false := by
  rw [decodeFrame, if_pos hw] at h
  split at h
  · cases h
  · next hnone => simpa using List.find?_eq_none.1 hnone k (Kind.mem_all k)

/-- A row that a frame decodes to classifies it as CLASSIFY does: no kind before the row's is a candidate
(41_dispatcher.md R120; log 6). -/
theorem exec_of_decodeFrame {s : State} {f : Frame} {i : Instr} (hlegal : s.registry.legal = true)
    (h : decodeFrame s.registry f = .ok i) : exec i s = .next (s.present f (classify s.registry f)) := by
  obtain ⟨k, hk, rfl⟩ := decodeFrame_eq_ok.1 h
  have hfirst : Kind.all.find? (s.registry.isCandidate f) = some k := by
    simpa [selects] using (Bool.and_eq_true_iff.1 hk).2
  rw [exec_decodeRow, classifyInto_of_legal hlegal, classify_eq_fromOn hfirst]

/-- Settles O7: the completing byte presents the frame's classification at the frame boundary, which is what the frame's
row does there, and RX_UNKNOWN where no kind is a candidate. -/
theorem completingByteRunsDecodeRow : Obligations.CompletingByteRunsDecodeRow := by
  intro s b h hs hl
  obtain ⟨held, hr, -, -, hw, hx⟩ := execByteIn_completes h hs hl b
  change exec (.byteIn b) s = _ at hx
  refine ⟨held, hr, hw, fun i hi => ?_, fun e he => ?_⟩
  · exact hx.trans (exec_of_decodeFrame (s := s.dropFrame) h.registry hi).symm
  · rw [hx, classify_eq_unknown_iff.2 (isCandidate_eq_false_of_decodeFrame_error hw he)]
    rfl

/-- Settles O20: under a legal registry a row presents a classification, which is never the helper-domain fault. -/
theorem decodeRowsNeverStop : Obligations.DecodeRowsNeverStop := by
  intro s k f hlegal
  obtain ⟨rx, diag, hp⟩ := s.present_classifyAmong f s.registry (Kind.fromOn k)
  refine ⟨_, (exec_decodeRow k f s).trans (classifyInto_of_legal hlegal _ f), ?_⟩
  rw [hp]

/-- Settles O21: the row's classification has a candidate and no match. -/
theorem decodeRowWithoutMatchIsMalformed : Obligations.DecodeRowWithoutMatchIsMalformed := fun _ _ _ =>
  exec_decodeRow_of_no_match

/-! ### The disambiguation property -/

/-- A frame that is completed is whole (30_encoding.md R60). -/
theorem wholeFrame_of_completes {s t : State} {b : Byte} {f : Frame} (h : completes s t b f) : wholeFrame f = true := by
  obtain ⟨hinv, hs, hl, ⟨held, hr, rfl⟩, -⟩ := h
  obtain ⟨held', hr', -, -, hw, -⟩ := execByteIn_completes hinv hs hl b
  cases hr.symm.trans hr'
  exact hw

/-- The first candidate that matches is delivered (41_dispatcher.md R121). -/
theorem message_of_first {s t : State} {b : Byte} {f : Frame} {k : Kind} (h : completes s t b f)
    (hc : s.registry.isCandidate f k = true) (hm : matchKind s.registry k f = true)
    (hfirst : ∀ j, j.id < k.id → s.registry.isCandidate f j = true → matchKind s.registry j f = false) :
    ∃ fields diag, decodeKind s.registry k f = some (fields, diag) ∧ fields.kind = k ∧ t.rx = .message fields f ∧
      t.diag = diag :=
  firstMatchingCandidateWins s t b f k h (Registry.isCandidate_iff.1 hc).1 (Registry.isCandidate_iff.1 hc).2 hm
    fun j hj hcmd hlen => hfirst j hj (Registry.isCandidate_iff.2 ⟨hcmd, hlen⟩)

/-- Where a candidate matches there is a first one that does, of its kind id or a lower one. -/
theorem exists_first_match {r : Registry} {f : Frame} {i : Kind} (hc : r.isCandidate f i = true)
    (hm : matchKind r i f = true) :
    ∃ k, k.id ≤ i.id ∧ r.isCandidate f k = true ∧ matchKind r k f = true ∧
      ∀ j, j.id < k.id → r.isCandidate f j = true → matchKind r j f = false := by
  induction hn : i.id using Nat.strong_induction_on generalizing i with
  | _ n ih =>
    by_cases hfirst : ∀ j, j.id < i.id → r.isCandidate f j = true → matchKind r j f = false
    · exact ⟨i, hn.le, hc, hm, hfirst⟩
    · push Not at hfirst
      obtain ⟨j, hj, hjc, hjm⟩ := hfirst
      obtain ⟨k, hk, hrest⟩ := ih j.id (hn ▸ hj) hjc (Bool.eq_true_of_not_eq_false hjm) rfl
      exact ⟨k, by omega, hrest⟩

/-- Kinds that share no command byte and length have no frame in common (41_dispatcher.md R127). -/
theorem Registry.unambiguous_of_no_collision {r : Registry}
    (h : ∀ i j : Kind, i.id < j.id → r.cmd i = r.cmd j → r.len i ≠ r.len j) : r.unambiguous := by
  intro i j f _ hij hi hj
  obtain ⟨hcmd, hlen⟩ := Registry.isCandidate_collide hi hj
  exact absurd hlen (h i j hij hcmd)

theorem defaultRegistry_no_collision (i j : Kind) (hij : i.id < j.id)
    (hcmd : defaultRegistry.cmd i = defaultRegistry.cmd j) : defaultRegistry.len i ≠ defaultRegistry.len j := by
  revert hij hcmd
  cases i <;> cases j <;> decide

/-- Settles O19: of two candidates that match, the first match is delivered and is the lower or comes before it; under
an unambiguous registry a match is the first one. -/
theorem disambiguationProperty : Obligations.DisambiguationProperty := by
  refine ⟨fun s t b f i j h _ hci _ hmi _ => ?_, fun r => Registry.unambiguous_of_no_collision,
    Registry.unambiguous_of_no_collision defaultRegistry_no_collision, fun s t b f k h hr hc hm => ?_⟩
  · obtain ⟨k, hki, hck, hmk, hfirst⟩ := exists_first_match hci hmi
    obtain ⟨fields, -, -, rfl, hrx, -⟩ := message_of_first h hck hmk hfirst
    refine ⟨fields, hrx, hki, fun hbefore => Kind.id_injective (le_antisymm hki (Nat.not_lt.1 fun hlt => ?_))⟩
    simp [hbefore _ hlt hck] at hmk
  · refine message_of_first h hc hm fun j hj hjc => Bool.eq_false_iff.2 fun hjm => ?_
    exact hj.ne (congrArg Kind.id (hr.eq_of_match (wholeFrame_of_completes h) hjc hc hjm hm))

/-! ### The selection word -/

/-- The mask 0xFF0F keeps the first byte and the length nibble of the second (30_encoding.md R62). -/
theorem u16be_and_mask (hi lo : Byte) : u16be hi lo &&& 0xFF0F = u16be hi (lo &&& 0x0F) := by
  have hhi : (0xFF0F : BitVec 16) &&& hi.setWidth 16 <<< 8 = hi.setWidth 16 <<< 8 := by
    revert hi
    decide
  have hlo : (0xFF0F : BitVec 16) &&& lo.setWidth 16 = (lo &&& 0x0F).setWidth 16 := by
    revert lo
    decide
  rw [u16be, BitVec.and_comm, BitVec.and_or_distrib_left, hhi, hlo, u16be]

/-- U16BE keeps both bytes (42_bit_helpers.md R143). -/
theorem u16be_inj {a b c d : Byte} : u16be a b = u16be c d ↔ a = c ∧ b = d := by
  have := b.isLt
  have := d.isLt
  rw [u16be_eq, u16be_eq, ← BitVec.toNat_inj, ← BitVec.toNat_inj, ← BitVec.toNat_inj]
  simp only [BitVec.toNat_ofNat]
  omega

/-- The selection word of a kind is U16BE of its command byte and its length nibble (30_encoding.md R62). -/
theorem selectionWord_eq (cmd : Byte) {n : Nat} (hn : n ≤ 18) :
    (cmd.setWidth 16 <<< 8) ||| BitVec.ofNat 16 (n - 3) = u16be cmd (BitVec.ofNat 8 (n - 3)) := by
  have hnib : (BitVec.ofNat 8 (n - 3)).setWidth 16 = BitVec.ofNat 16 (n - 3) := by
    apply BitVec.eq_of_toNat_eq
    simp
    omega
  rw [u16be, hnib]

/-- The length nibble of an attribute byte, as a number (30_encoding.md R60). -/
theorem lengthNibble_eq_iff {a : Byte} {n : Nat} (h3 : 3 ≤ n) (h18 : n ≤ 18) :
    a &&& 0x0F = BitVec.ofNat 8 (n - 3) ↔ a.toNat % 16 + 3 = n := by
  have ha : (a &&& 0x0F).toNat = a.toNat % 16 := Nat.and_two_pow_sub_one_eq_mod a.toNat 4
  rw [← BitVec.toNat_inj, ha, BitVec.toNat_ofNat]
  omega

/-- Settles O4: the masked selection word is the command byte beside the length nibble, which is the frame's length less
3 where the frame is whole. -/
theorem candidacyIsSelectionWordTest : Obligations.CandidacyIsSelectionWordTest := by
  intro r f k hlegal hw
  obtain ⟨h3, h18⟩ := Registry.len_bounds hlegal k
  obtain ⟨c, a, more, rfl, hlen⟩ := exists_cons_of_wholeFrame hw
  change _ ↔ u16be c a &&& 0xFF0F = _
  rw [u16be_and_mask, selectionWord_eq _ h18, u16be_inj, lengthNibble_eq_iff h3 h18, ← hlen, Registry.isCandidate_iff]
  simp

end Sys2Proof.Machine

/-! ### DECODE.WAYPOINT_NAME, and the packing of 6-bit codes -/

namespace Sys2Proof.Machine

open Sys2Proof.Claims

/-- ASCII6 of a code below 64 is 0x30 above it (42_bit_helpers.md R149). -/
theorem ascii6_ofNat {n : Nat} (h : n < 64) : ascii6 (BitVec.ofNat 6 n) = BitVec.ofNat 8 (n + 0x30) := by
  apply BitVec.eq_of_toNat_eq
  simp [ascii6, Nat.mod_eq_of_lt h]

/-- The decoder shows the four codes of the data bytes as characters (43_codecs.md R179). -/
theorem decodeKind_waypointName_of_unpack {x y z : Byte} {c0 c1 c2 c3 : BitVec 6}
    (h : unpack6x4 x y z = (c0, c1, c2, c3)) (r : Registry) (c a x' y' z' : Byte) :
    decodeKind r .waypointName [c, a, x, x', y, y', z, z'] =
      some (.waypointName #v[ascii6 c0, ascii6 c1, ascii6 c2, ascii6 c3] (auxnib a), 0) := by
  simp only [decodeKind, decodeWaypointName, byteAt, List.getD_cons_succ, List.getD_cons_zero, h]

theorem decodeKind_waypointName (r : Registry) (c a x x' y y' z z' : Byte) :
    decodeKind r .waypointName [c, a, x, x', y, y', z, z'] = some (.waypointName
      #v[BitVec.ofNat 8 (x.toNat % 64 + 0x30), BitVec.ofNat 8 (x.toNat / 64 + y.toNat % 16 * 4 + 0x30),
        BitVec.ofNat 8 (y.toNat / 16 + z.toNat % 4 * 16 + 0x30), BitVec.ofNat 8 (z.toNat / 4 + 0x30)]
      (BitVec.ofNat 4 (a.toNat / 16)), 0) := by
  have hx := x.isLt
  have hy := y.isLt
  have hz := z.isLt
  rw [← ascii6_ofNat (show x.toNat % 64 < 64 by omega),
    ← ascii6_ofNat (show x.toNat / 64 + y.toNat % 16 * 4 < 64 by omega),
    ← ascii6_ofNat (show y.toNat / 16 + z.toNat % 4 * 16 < 64 by omega),
    ← ascii6_ofNat (show z.toNat / 4 < 64 by omega), ← auxnib_eq]
  exact decodeKind_waypointName_of_unpack (unpack6x4_eq x y z) ..

/-- A waypoint name matches where each of its three pairs is a byte and its complement (43_codecs.md R177). -/
theorem matchWaypointName_iff {f : Frame} : matchWaypointName f = true ↔
    byteAt f 3 = ~~~byteAt f 2 ∧ byteAt f 5 = ~~~byteAt f 4 ∧ byteAt f 7 = ~~~byteAt f 6 := by
  simp only [matchWaypointName, Bool.and_eq_true, compl8_iff, and_assoc]

/-- Settles O26: three pairs of complements match, and the row delivers its decoder's record. -/
theorem decodeWaypointNameDelivers : Obligations.DecodeWaypointNameDelivers := fun _ a x y z h =>
  exec_decodeRow_of_match (k := .waypointName) (f := [_, a, x, ~~~x, y, ~~~y, z, ~~~z]) h rfl rfl
    (matchWaypointName_iff.2 ⟨rfl, rfl, rfl⟩) (decodeKind_waypointName ..)

/-- Settles O59: both helpers keep the 24-bit number of the three bytes, which determines the codes and the bytes. -/
theorem packUnpackInverse : Obligations.PackUnpackInverse := by
  constructor
  · intro c0 c1 c2 c3
    have hsum := pack6x4_sum c0 c1 c2 c3
    have h0 := c0.isLt
    have h1 := c1.isLt
    have h2 := c2.isLt
    have h3 := c3.isLt
    have hx := (pack6x4 c0 c1 c2 c3).1.isLt
    have hy := (pack6x4 c0 c1 c2 c3).2.1.isLt
    have hz := (pack6x4 c0 c1 c2 c3).2.2.isLt
    simp only [unpack6x4_eq, Prod.mk.injEq, ← BitVec.toNat_inj, BitVec.toNat_ofNat]
    omega
  · intro x y z
    have hsum := pack6x4_sum (unpack6x4 x y z).1 (unpack6x4 x y z).2.1 (unpack6x4 x y z).2.2.1 (unpack6x4 x y z).2.2.2
    have hx := x.isLt
    have hy := y.isLt
    have hz := z.isLt
    generalize pack6x4 (unpack6x4 x y z).1 (unpack6x4 x y z).2.1 (unpack6x4 x y z).2.2.1 (unpack6x4 x y z).2.2.2 = p
      at hsum ⊢
    obtain ⟨x', y', z'⟩ := p
    have hx' := x'.isLt
    have hy' := y'.isLt
    have hz' := z'.isLt
    simp only [unpack6x4_eq, BitVec.toNat_ofNat] at hsum
    simp only [Prod.mk.injEq, ← BitVec.toNat_inj]
    omega

/-! ### The complement checks -/

/-- Replacing one byte of a complementing pair by another value breaks the pair (42_bit_helpers.md R144). -/
theorem compl8_replace {a b o : Byte} (h : compl8 a b = true) :
    (o ≠ a → compl8 o b = false) ∧ (o ≠ b → compl8 a o = false) := by
  rw [compl8_iff] at h
  subst h
  refine ⟨fun hne => Bool.eq_false_iff.2 fun hc => hne ?_, fun hne => Bool.eq_false_iff.2 fun hc => hne ?_⟩
  · exact (BitVec.not_inj.1 (compl8_iff.1 hc)).symm
  · exact compl8_iff.1 hc

/-- A byte that is replaced reads as its new value, every other as before. -/
theorem byteAt_set {f : Frame} {i : Nat} (hi : i < f.length) (o : Byte) (j : Nat) :
    byteAt (f.set i o) j = if i = j then o else byteAt f j := by
  simp only [byteAt, List.getD_eq_getElem?_getD, List.getElem?_set, hi]
  split <;> simp

/-- Settles O31: each of the bytes stands in one complementing pair, and replacing it breaks that pair. -/
theorem complementChecksReject : Obligations.ComplementChecksReject := by
  constructor
  · intro front key nkey other h
    simp only [matchKeystroke, byteAt_trailing] at h ⊢
    exact compl8_replace h
  · intro f i other hlen hm h2 h8 hne
    simp only [matchWaypointName, Bool.and_eq_true, byteAt_set (hlen ▸ h8)] at hm ⊢
    obtain ⟨⟨h23, h45⟩, h67⟩ := hm
    interval_cases i
    · simp [(compl8_replace h23).1 hne]
    · simp [(compl8_replace h23).2 hne]
    · simp [(compl8_replace h45).1 hne]
    · simp [(compl8_replace h45).2 hne]
    · simp [(compl8_replace h67).1 hne]
    · simp [(compl8_replace h67).2 hne]

/-! ### DECODE.NAV_TO_WAYPOINT -/

/-- A field of a navigation frame, as a number (43_codecs.md R182). -/
theorem navField_eq (f : Frame) (p : FieldPos) (w : Nat) :
    navField f p w = BitVec.ofNat w ((byteAt f p.byte).toNat / 2 ^ p.low.val) := by
  apply BitVec.eq_of_toNat_eq
  simp [navField, Nat.shiftRight_eq_div_pow]

/-- The bearing of a quadrant and the half-degrees within it, in two nibbles (43_codecs.md R183). -/
theorem bearingHalf_eq (q : BitVec 2) (hi lo : Nibble) :
    q.setWidth 10 * 180 + (hi ++ lo : Byte).setWidth 10 =
      BitVec.ofNat 10 (q.toNat * 180 + (hi.toNat * 16 + lo.toNat)) := by
  have hcat : (hi ++ lo : Byte).toNat = hi.toNat * 16 + lo.toNat := by
    rw [BitVec.toNat_append, ← Nat.shiftLeft_add_eq_or_of_lt lo.isLt, Nat.shiftLeft_eq]
  apply BitVec.eq_of_toNat_eq
  rw [BitVec.toNat_add, BitVec.toNat_mul, BitVec.toNat_setWidth, BitVec.toNat_setWidth, hcat]
  simp

theorem decodeKind_navToWaypoint {r : Registry} (hr : r.nav = defaultNavLayout) (c a b2 b3 b4 b5 fl b7 last : Byte) :
    decodeKind r .navToWaypoint [c, a, b2, b3, b4, b5, fl, b7, last] = some (.navToWaypoint
      { xteHundredths := BitVec.ofNat 12 (b2.toNat * 16 + a.toNat / 16)
        bearingHalf := BitVec.ofNat 10 (b3.toNat % 4 * 180 + (b4.toNat % 16 * 16 + b3.toNat / 16))
        distRaw := BitVec.ofNat 12 (b5.toNat * 16 + b4.toNat / 16)
        distScale := fl.getLsbD 4
        steerRight := fl.getLsbD 6
        xtePresent := fl.getLsbD 0
        bearingPresent := fl.getLsbD 1
        distPresent := fl.getLsbD 2
        xteBig := fl.getLsbD 3
        flags := fl
        reserved3 := BitVec.ofNat 2 (b3.toNat / 4)
        reserved7 := b7 }, fl &&& 0xA0) := by
  have hnib (x : Byte) : x.toNat / 16 % 16 = x.toNat / 16 := by
    have := x.isLt
    omega
  simp only [decodeKind, decodeNavToWaypoint, navFields, hr, u12_eq, bearingHalf_eq, navField_eq]
  simp [defaultNavLayout, byteAt, navDiag, hnib]

/-- Every legal registry has navigation frames of 9 bytes (10_state.md R39). -/
theorem Registry.len_navToWaypoint {r : Registry} (h : r.legal = true) : r.len .navToWaypoint = 9 := by
  obtain ⟨-, -, -, -, hlen, -⟩ := Registry.legal_iff.1 h
  exact hlen

/-- A navigation frame matches where its final byte is the complement of its flags byte (43_codecs.md R181). -/
theorem matchNavToWaypoint_default_iff {c a b2 b3 b4 b5 fl b7 last : Byte} :
    matchNavToWaypoint defaultNavLayout [c, a, b2, b3, b4, b5, fl, b7, last] = true ↔ last = ~~~fl :=
  compl8_iff

/-- Settles O27: the final byte decides the match, and the row of a frame that matches delivers its decoder's record and
DIAG. -/
theorem decodeNavToWaypointDelivers : Obligations.DecodeNavToWaypointDelivers := by
  constructor
  · intro s a b2 b3 b4 b5 fl b7 h hnav
    refine exec_decodeRow_of_match (k := .navToWaypoint) (f := [_, a, b2, b3, b4, b5, fl, b7, ~~~fl]) h rfl
      (Registry.len_navToWaypoint h).symm ?_ (decodeKind_navToWaypoint hnav ..)
    rw [matchKind, hnav, matchNavToWaypoint_default_iff]
  · intro cmd a b2 b3 b4 b5 fl b7 last hlast
    have hm : matchNavToWaypoint defaultNavLayout [cmd, a, b2, b3, b4, b5, fl, b7, last] = false :=
      Bool.eq_false_iff.2 fun h => hlast (matchNavToWaypoint_default_iff.1 h)
    refine ⟨hm, fun s t hnav hcmd hc hother => ?_⟩
    have hlen := (Registry.len_navToWaypoint hc.1.registry).symm
    refine malformed_of_completes (k := .navToWaypoint) hc (Registry.isCandidate_iff.2 ⟨congrArg some hcmd, hlen⟩)
      ?_ hother
    rw [matchKind, hnav, hm]

/-! ### DECODE.LAMP -/

/-- A lamp frame matches where its level byte is one of the four (43_codecs.md R190). -/
theorem matchLamp_iff {c a v : Byte} : matchLamp [c, a, v] = true ↔ v.toNat ∈ [0, 4, 8, 12] := by
  change matchLamp [0, 0, v] = true ↔ _
  revert v
  decide

theorem decodeKind_lamp (r : Registry) (c a : Byte) (level : BitVec 2) :
    decodeKind r .lamp [c, a, BitVec.ofNat 8 (level.toNat * 4)] =
      some (.lamp level (BitVec.ofNat 4 (a.toNat / 16)), 0) := by
  have hlevel : (BitVec.ofNat 8 (level.toNat * 4) >>> 2).setWidth 2 = level := by
    revert level
    decide
  simp [decodeKind, decodeLamp, byteAt, hlevel, auxnib_eq]

/-- Settles O29: the four level bytes match, and the row delivers its decoder's record; any other does not, and the row
falls through. -/
theorem decodeLampDelivers : Obligations.DecodeLampDelivers := by
  constructor
  · intro s a level h
    refine exec_decodeRow_of_match (k := .lamp) h rfl rfl (matchLamp_iff.2 ?_) (decodeKind_lamp ..)
    revert level
    decide
  · intro s a v h hv hlater
    refine exec_decodeRow_of_no_match (k := .lamp) h (Registry.isCandidate_iff.2 ⟨rfl, rfl⟩) fun j hj hc => ?_
    rcases hj.lt_or_eq with hlt | heq
    · exact hlater j hlt hc
    · obtain rfl := Kind.id_injective heq
      exact Bool.eq_false_iff.2 fun hm => hv (matchLamp_iff.1 hm)

end Sys2Proof.Machine

/-! ### ENC.HEADING_COURSE -/

namespace Sys2Proof.Machine

open Sys2Proof.Claims

/-- u of a split heading: the bits BITCOUNT2 counts above the quadrant (42_bit_helpers.md R150). -/
theorem HeadingParts.nibble_toNat (p : HeadingParts) : p.nibble.toNat = p.countBits.toNat * 4 + p.quadrant.toNat := by
  obtain ⟨q, c, n⟩ := p
  simp only [HeadingParts.nibble]
  revert q c
  decide

/-- HEADSPLIT of a heading to 359, as numbers (42_bit_helpers.md R150). -/
theorem headsplit_toNat {h : BitVec 9} (hle : h.toNat ≤ 359) :
    (headsplit h).nibble.toNat = h.toNat % 90 % 2 * 4 + h.toNat / 90 ∧
      (headsplit h).steps.toNat = h.toNat % 90 / 2 := by
  have hcount : (headsplit h).countBits.toNat = h.toNat % 90 % 2 := by
    have hodd : h % 90 % 2 = 1 ↔ h.toNat % 90 % 2 = 1 := by simp [← BitVec.toNat_inj]
    simp only [headsplit, hodd]
    split
    · next hone => rw [hone]; rfl
    · next hne => rw [Nat.mod_two_ne_one.1 hne]; rfl
  have hquad : (headsplit h).quadrant.toNat = h.toNat / 90 := by
    simp [headsplit]
    omega
  refine ⟨by rw [HeadingParts.nibble_toNat, hcount, hquad], ?_⟩
  simp [headsplit]
  omega

/-- The byte of the course's quadrant and the heading's 2-degree steps (30_encoding.md R64). -/
theorem courseByte_eq {c : BitVec 10} (hle : c.toNat ≤ 719) (n : BitVec 6) :
    ((c / 180).setWidth 8 <<< 6) ||| n.setWidth 8 = BitVec.ofNat 8 (c.toNat / 180 * 64 + n.toNat) := by
  have hn := n.isLt
  have hq : (((c / 180).setWidth 8 : Byte) <<< 6).toNat = c.toNat / 180 * 2 ^ 6 := by
    simp [Nat.shiftLeft_eq]
    omega
  apply BitVec.eq_of_toNat_eq
  rw [BitVec.toNat_or, hq, BitVec.toNat_setWidth, BitVec.toNat_ofNat, Nat.mod_eq_of_lt (by omega), Nat.or_comm,
    or_eq_add _ hn]
  omega

/-- ENCODE_HEADING_COURSE inside its ranges: the attribute byte, the course's quadrant above the heading's steps, and
the course's rest, as numbers (43_codecs.md R163). -/
theorem encodeHeadingCourse_of_le {r : Registry} (hr : r.legal = true) {o : Opnd} (hh : o.heading.toNat ≤ 359)
    (hc : o.courseHalf.toNat ≤ 719) :
    encodeHeadingCourse r o = .frame ([r.cmdHeadingCourse,
      BitVec.ofNat 8 ((o.heading.toNat % 90 % 2 * 4 + o.heading.toNat / 90) * 16 + (r.lenHeadingCourse - 3)),
      BitVec.ofNat 8 (o.courseHalf.toNat / 180 * 64 + o.heading.toNat % 90 / 2),
      BitVec.ofNat 8 (o.courseHalf.toNat % 180)] ++ o.tail.toList.take (r.lenHeadingCourse - 4)) := by
  obtain ⟨h3, h18⟩ : 3 ≤ r.lenHeadingCourse ∧ r.lenHeadingCourse ≤ 18 := Registry.len_bounds hr .headingCourse
  obtain ⟨hnibble, hsteps⟩ := headsplit_toNat hh
  have hrest : (o.courseHalf % 180).setWidth 8 = BitVec.ofNat 8 (o.courseHalf.toNat % 180) := by
    apply BitVec.eq_of_toNat_eq
    simp
  rw [encodeHeadingCourse, if_neg (by omega)]
  simp only [courseByte_eq hc, attributeByte_eq _ h3 h18, hnibble, hsteps, hrest]

/-- Settles O32: the encoder splits at 359 and 719, and the frame holds the parts of the heading and the course. -/
theorem encHeadingCourseAnswers : Obligations.EncHeadingCourseAnswers := fun _ hr =>
  ⟨fun h => exec_encRow_of_encodeKind (k := .headingCourse) (if_pos h),
    fun hh hc => exec_encRow_of_encodeKind (k := .headingCourse) (encodeHeadingCourse_of_le hr hh hc)⟩

/-! ### ENC.KEYSTROKE and ENC.WAYPOINT_NAME -/

theorem encodeKeystroke_eq {r : Registry} (hr : r.legal = true) (o : Opnd) :
    encodeKeystroke r o = .frame ([r.cmdKeystroke, BitVec.ofNat 8 (o.aux.toNat * 16 + (r.lenKeystroke - 3))]
      ++ o.mid.toList.take (r.lenKeystroke - 4) ++ [o.key, ~~~o.key]) := by
  obtain ⟨h3, h18⟩ : 3 ≤ r.lenKeystroke ∧ r.lenKeystroke ≤ 18 := Registry.len_bounds hr .keystroke
  rw [encodeKeystroke, attributeByte_eq _ h3 h18, not8_eq]

/-- Settles O35: the encoder has no range check, and ends the frame with the key and its complement. -/
theorem encKeystrokeAnswers : Obligations.EncKeystrokeAnswers := fun s hr =>
  exec_encRow_of_encodeKind (k := .keystroke) (encodeKeystroke_eq hr s.opnd)

/-- The three data bytes of a waypoint name (43_codecs.md R178). -/
def nameBytes (o : Opnd) : Byte × Byte × Byte := pack6x4 (nameCode o 0) (nameCode o 1) (nameCode o 2) (nameCode o 3)

theorem encodeWaypointName_of_le (r : Registry) {o : Opnd} (h : o.nameLength.toNat ≤ 4) :
    encodeWaypointName r o = .frame [r.cmdWaypointName, 0x05, (nameBytes o).1, ~~~(nameBytes o).1, (nameBytes o).2.1,
      ~~~(nameBytes o).2.1, (nameBytes o).2.2, ~~~(nameBytes o).2.2] := by
  rw [encodeWaypointName, if_neg (Nat.not_lt.2 h)]
  simp only [not8_eq]
  rfl

/-- Settles O36: the encoder splits at four characters, and packing keeps the number the codes make. -/
theorem encWaypointNameAnswers : Obligations.EncWaypointNameAnswers := by
  refine fun s => ⟨fun h => exec_encRow_of_encodeKind (k := .waypointName) (if_pos h), fun h => ?_⟩
  refine ⟨fun i => (nameCode s.opnd i).toNat, _, _, _, fun i => ?_, pack6x4_sum _ _ _ _,
    exec_encRow_of_encodeKind (k := .waypointName) (encodeWaypointName_of_le s.registry h)⟩
  simp only [nameCode]
  split <;> rfl

/-! ### ENCODE -/

/-- An encoder with a range check answers a frame exactly inside the range (60_exceptions.md R308). -/
theorem rangeChecked_eq_frame {c : Prop} [Decidable c] {f g : Frame} :
    (if c then Tx.outOfRange else .frame g) = .frame f ↔ ¬ c ∧ g = f := by
  by_cases h : c <;> simp [h]

theorem rangeChecked_ne_unsupported (c : Prop) [Decidable c] (f : Frame) :
    (if c then Tx.outOfRange else .frame f) ≠ .unsupported := by
  split <;> nofun

/-- The encoders that answer TX_UNSUPPORTED are those of the kinds without a transmit path (43_codecs.md R200). -/
theorem encodeKind_eq_unsupported_iff (r : Registry) (k : Kind) (o : Opnd) :
    encodeKind r k o = .unsupported ↔ k.id ∈ [5, 6, 7, 10, 11] := by
  cases k with
  | navToWaypoint | calibration | deadband | ccWarnings | apWindStatus => exact iff_of_true rfl (by decide)
  | keystroke | stw => exact iff_of_false nofun (by decide)
  | headingCourse | windAngle | windSpeed | waypointName | lamp =>
    exact iff_of_false (rangeChecked_ne_unsupported _ _) (by decide)

theorem Kind.ofId_id (k : Kind) : Kind.ofId (BitVec.ofNat 4 k.id) = some k := by cases k <;> rfl

theorem decodeEvent_encRow (k : Kind) : decodeEvent (BitVec.ofNat 16 (k.id * 16 + 4)) = .ok (encRow k) := by
  cases k <;> rfl

/-- Settles O40: KIND names the kind, whose row runs the same encoder. -/
theorem encodeRunsItsKind : Obligations.EncodeRunsItsKind := by
  refine fun s k => ⟨decodeEvent_encRow k, ?_, exec_encRow_of_encodeKind rfl, encodeKind_eq_unsupported_iff _ k _⟩
  rw [exec_encRow, exec, execEncode, Kind.ofId_id]

/-! ### The frames of the encoders -/

/-- Every encoded frame begins with its kind's command byte and has its kind's length (43_codecs.md R201). -/
theorem isCandidate_of_encodeKind {r : Registry} (hr : r.legal = true) {k : Kind} {o : Opnd} {f : Frame}
    (h : encodeKind r k o = .frame f) : r.isCandidate f k = true := by
  rw [Registry.isCandidate_iff]
  have hlegal := Registry.legal_iff.1 hr
  cases k with
  | headingCourse =>
    obtain ⟨-, rfl⟩ := rangeChecked_eq_frame.1 h
    refine ⟨rfl, ?_⟩
    simp [Registry.len]
    omega
  | keystroke =>
    cases h
    refine ⟨rfl, ?_⟩
    simp [Registry.len]
    omega
  | windAngle | windSpeed | waypointName | lamp =>
    obtain ⟨-, rfl⟩ := rangeChecked_eq_frame.1 h
    exact ⟨rfl, rfl⟩
  | stw =>
    cases h
    exact ⟨rfl, rfl⟩
  | navToWaypoint | calibration | deadband | ccWarnings | apWindStatus => cases h

/-- Settles O42: an encoded frame is whole and a candidate of its kind, and a candidate has its kind's length. -/
theorem encodedFramesAreWhole : Obligations.EncodedFramesAreWhole := by
  intro r k o f hr h
  have hc := isCandidate_of_encodeKind hr h
  exact ⟨(Registry.isCandidate_iff.1 hc).2, wholeFrame_of_encodeKind hr h, hc⟩

end Sys2Proof.Machine

/-! ### The round trip of an encoded frame -/

namespace Sys2Proof.Machine

open Sys2Proof.Claims

/-- A frame of a kind that matches it and whose record shows the operand's values (43_codecs.md R199). -/
def decodesBack (r : Registry) (k : Kind) (o : Opnd) (f : Frame) : Prop :=
  matchKind r k f = true ∧ ∃ fields diag, decodeKind r k f = some (fields, diag) ∧ roundTrips r o fields

/-- The parts of u in an attribute byte: the quadrant, the odd degree, and a bit that no canonical frame sets. -/
theorem attributeByte_parts {odd q m : Nat} (ho : odd ≤ 1) (hq : q ≤ 3) (hm : m ≤ 15) :
    ((odd * 4 + q) * 16 + m) % 2 ^ 8 / 16 % 4 = q ∧ ((odd * 4 + q) * 16 + m) % 2 ^ 8 / 64 % 2 = odd ∧
      ((odd * 4 + q) * 16 + m) % 2 ^ 8 / 128 = 0 := by
  omega

/-- The parts of a byte with a quadrant above six bits. -/
theorem quadrantByte_parts {q n : Nat} (hq : q ≤ 3) (hn : n < 64) :
    (q * 64 + n) % 2 ^ 8 / 64 = q ∧ (q * 64 + n) % 2 ^ 8 % 64 = n := by
  omega

/-- The quadrant, the 2-degree steps and the odd degree make up the heading again (42_bit_helpers.md R145, R150). -/
theorem decodesBack_headingCourse {r : Registry} (hr : r.legal = true) {o : Opnd} {f : Frame}
    (h : encodeHeadingCourse r o = .frame f) : decodesBack r .headingCourse o f := by
  obtain ⟨hrange, -⟩ := rangeChecked_eq_frame.1 h
  obtain ⟨hh, hc⟩ : o.heading.toNat ≤ 359 ∧ o.courseHalf.toNat ≤ 719 := by omega
  obtain ⟨h4, h18, -⟩ := Registry.legal_iff.1 hr
  rw [encodeHeadingCourse_of_le hr hh hc] at h
  cases h
  obtain ⟨hquad, hodd, htop⟩ := attributeByte_parts (odd := o.heading.toNat % 90 % 2) (q := o.heading.toNat / 90)
    (m := r.lenHeadingCourse - 3) (by omega) (by omega) (by omega)
  obtain ⟨hcourse, hsteps⟩ := quadrantByte_parts (q := o.courseHalf.toNat / 180) (n := o.heading.toNat % 90 / 2)
    (by omega) (by omega)
  obtain ⟨n, hn, hv⟩ := heading_auxnib_eq
    (BitVec.ofNat 8 ((o.heading.toNat % 90 % 2 * 4 + o.heading.toNat / 90) * 16 + (r.lenHeadingCourse - 3)))
    (BitVec.ofNat 8 (o.courseHalf.toNat / 180 * 64 + o.heading.toNat % 90 / 2))
  refine ⟨rfl, _, _, decodeKind_headingCourse_of_heading hn .., BitVec.eq_of_toNat_eq ?_, BitVec.eq_of_toNat_eq ?_, rfl⟩
  · rw [hv, BitVec.toNat_ofNat, BitVec.toNat_ofNat, hquad, hodd, htop, hsteps]
    omega
  · rw [coursehalf_toNat, BitVec.toNat_ofNat, BitVec.toNat_ofNat, hcourse]
    omega

/-- U16BE is the inverse of SPLIT16 (42_bit_helpers.md R143). -/
theorem u16be_split16 (v : BitVec 16) : u16be (split16 v).1 (split16 v).2 = v := by
  have hv := v.isLt
  rw [split16_eq, u16be_eq]
  apply BitVec.eq_of_toNat_eq
  simp only [BitVec.toNat_ofNat]
  omega

theorem decodesBack_windAngle (r : Registry) {o : Opnd} {f : Frame} (h : encodeWindAngle o = .frame f) :
    decodesBack r .windAngle o f := by
  obtain ⟨-, rfl⟩ := rangeChecked_eq_frame.1 h
  exact ⟨rfl, _, _, rfl, u16be_split16 o.angleHalf, (by decide : auxnib 0x01 = 0)⟩

theorem decodesBack_stw (r : Registry) {o : Opnd} {f : Frame} (h : encodeStw o = .frame f) :
    decodesBack r .stw o f := by
  cases h
  exact ⟨rfl, _, _, rfl, u16be_split16 o.stwTenths, (by decide : auxnib 0x01 = 0)⟩

/-- The knots byte stays below the unit bit, and its tenths byte is a digit. -/
theorem decodesBack_windSpeed (r : Registry) {o : Opnd} {f : Frame} (h : encodeWindSpeed o = .frame f) :
    decodesBack r .windSpeed o f := by
  obtain ⟨hrange, -⟩ := rangeChecked_eq_frame.1 h
  have hle : o.windTenths.toNat ≤ 1279 := Nat.not_lt.1 hrange
  obtain ⟨hknots, -⟩ := knots_toNat hle
  rw [encodeWindSpeed_of_le hle] at h
  cases h
  refine ⟨matchWindSpeed_iff.2 ?_, _, _, decodeKind_windSpeed .., ?_, BitVec.eq_of_toNat_eq ?_, by decide⟩
  · rw [BitVec.toNat_ofNat]
    omega
  · rw [hknots]
    exact decide_eq_false (by omega)
  · have hlow : o.windTenths.toNat / 10 % 128 = o.windTenths.toNat / 10 := by omega
    have hdigit : o.windTenths.toNat % 10 % 2 ^ 8 = o.windTenths.toNat % 10 := by omega
    rw [hknots, BitVec.toNat_ofNat, BitVec.toNat_ofNat, hlow, hdigit]
    omega

theorem decodesBack_keystroke {r : Registry} (hr : r.legal = true) {o : Opnd} {f : Frame}
    (h : encodeKeystroke r o = .frame f) : decodesBack r .keystroke o f := by
  obtain ⟨-, -, h4, h18, -⟩ := Registry.legal_iff.1 hr
  have haux := o.aux.isLt
  rw [encodeKeystroke_eq hr] at h
  cases h
  refine ⟨matchKeystroke_iff.2 rfl, _, _, decodeKind_keystroke .., rfl, BitVec.eq_of_toNat_eq ?_, rfl⟩
  simp only [BitVec.toNat_ofNat]
  omega

theorem decodesBack_lamp (r : Registry) {o : Opnd} {f : Frame} (h : encodeLamp o = .frame f) :
    decodesBack r .lamp o f := by
  obtain ⟨hrange, -⟩ := rangeChecked_eq_frame.1 h
  have hle : o.level.toNat ≤ 3 := Nat.not_lt.1 hrange
  obtain ⟨level, hlevel⟩ : ∃ level : BitVec 2, level.toNat = o.level.toNat :=
    ⟨BitVec.ofNat 2 o.level.toNat, by rw [BitVec.toNat_ofNat]; omega⟩
  rw [encodeLamp_of_le hle, ← hlevel] at h
  cases h
  refine ⟨matchLamp_iff.2 ?_, _, _, decodeKind_lamp .., hlevel, by decide⟩
  clear hlevel
  revert level
  decide

/-- The character a code shows as is the canonical form of the one it came from (43_codecs.md R180). -/
theorem ascii6_char6 (ch : Byte) : ascii6 (char6 ch) = canonicalChar ch := by
  revert ch
  decide

/-- A slot of a waypoint name shows its character, or '0' from the name's end on (43_codecs.md R180). -/
theorem ascii6_nameCode (o : Opnd) (i : Fin 4) :
    ascii6 (nameCode o i) = if i.val < o.nameLength.toNat then canonicalChar o.chars[i] else 0x30 := by
  unfold nameCode
  split
  · exact ascii6_char6 _
  · rfl

theorem unpack6x4_nameBytes (o : Opnd) :
    unpack6x4 (nameBytes o).1 (nameBytes o).2.1 (nameBytes o).2.2 =
      (nameCode o 0, nameCode o 1, nameCode o 2, nameCode o 3) :=
  packUnpackInverse.1 _ _ _ _

theorem decodesBack_waypointName (r : Registry) {o : Opnd} {f : Frame} (h : encodeWaypointName r o = .frame f) :
    decodesBack r .waypointName o f := by
  obtain ⟨hrange, -⟩ := rangeChecked_eq_frame.1 h
  rw [encodeWaypointName_of_le r (Nat.not_lt.1 hrange)] at h
  cases h
  refine ⟨matchWaypointName_iff.2 ⟨rfl, rfl, rfl⟩, _, _, decodeKind_waypointName_of_unpack (unpack6x4_nameBytes o) ..,
    fun i => ?_, by decide⟩
  rw [← ascii6_nameCode]
  fin_cases i <;> rfl

/-- What an encoder gives, its kind's decoder reads back (43_codecs.md R199). -/
theorem decodesBack_of_encodeKind {r : Registry} (hr : r.legal = true) {k : Kind} {o : Opnd} {f : Frame}
    (h : encodeKind r k o = .frame f) : decodesBack r k o f := by
  cases k with
  | headingCourse => exact decodesBack_headingCourse hr h
  | windAngle => exact decodesBack_windAngle r h
  | windSpeed => exact decodesBack_windSpeed r h
  | keystroke => exact decodesBack_keystroke hr h
  | waypointName => exact decodesBack_waypointName r h
  | lamp => exact decodesBack_lamp r h
  | stw => exact decodesBack_stw r h
  | navToWaypoint | calibration | deadband | ccWarnings | apWindStatus => cases h

/-- Settles O43: the frame is whole, so it is recovered and classified; its kind is the first candidate that matches,
and its record shows the operand's values. -/
theorem encodedFrameRoundTrips : Obligations.EncodedFrameRoundTrips := by
  intro s k o f ps rest h hs henc hfirst hps hin
  obtain ⟨hm, fields, diag, hd, hback⟩ := decodesBack_of_encodeKind h.registry henc
  obtain ⟨t, hrun, -, -, -, -, -, -, hshow⟩ :=
    frameFedByteByByteIsClassified s f ps rest h hs (wholeFrame_of_encodeKind h.registry henc) hps hin
  rw [classify_of_first (isCandidate_of_encodeKind h.registry henc) hm hd hfirst] at hshow
  exact ⟨t, fields, hrun, hshow.1, decodeKind_kind hd, hback⟩

end Sys2Proof.Machine

/-! ### What the instructions leave unchanged -/

namespace Sys2Proof.Machine

open Sys2Proof.Claims

/-- Every instruction outside the receive path leaves the Frame Assembler, BUF, the registry and the ports (10_state.md
R30). -/
theorem exec_frame_of_not_receives {i : Instr} {s t : State} (hi : receives i = false) (h : exec i s = .next t) :
    ∃ rx tx diag fault, t = { s with rx := rx, tx := tx, diag := diag, fault := fault } := by
  have hnot : ¬ ((∃ b, i = .byteIn b) ∨ i = .sourceClosed ∨ i = .cancel) := fun hr => by
    simp [receives_iff.2 hr] at hi
  rcases exec_cases h with hr | hr | hr | ⟨-, rfl⟩ | ⟨k, -, rfl⟩ | ⟨-, rfl⟩ | ⟨k, f, -, rfl⟩
  · exact absurd (.inl hr) hnot
  · exact absurd (.inr (.inl hr)) hnot
  · exact absurd (.inr (.inr hr)) hnot
  · exact ⟨_, _, _, _, rfl⟩
  · exact ⟨_, _, _, _, rfl⟩
  · exact ⟨_, _, _, _, rfl⟩
  · obtain ⟨rx, diag, hp⟩ := s.present_classifyAmong f s.registry (Kind.fromOn k)
    exact ⟨rx, .none, diag, s.fault, hp⟩

/-- Settles O52: outside the receive path only the results and FAULT are written, and FAULT by an illegal row only. -/
theorem nonReceivingInstructionsKeepTheAssembler : Obligations.NonReceivingInstructionsKeepTheAssembler := by
  intro i s t hi h
  have hfault (hres : ¬ reserved i) (hkind : ∀ kind, i = .encode kind → kind.toNat < 12) : t.fault = s.fault := by
    refine exec_fault_of_not_illegalRow ?_ h
    rintro (hr | ⟨kind, hk, hle⟩)
    · exact hres hr
    · exact absurd (hkind kind hk) (Nat.not_lt.2 hle)
  obtain ⟨rx, tx, diag, fault, rfl⟩ := exec_frame_of_not_receives hi h
  exact ⟨rfl, rfl, rfl, fun _ => rfl, rfl, rfl, rfl, rfl, hfault⟩

/-! ### BUF -/

theorem execByteIn_buf_wf {b : Byte} {s t : State} (hwf : s.buf.wf) (h : exec (.byteIn b) s = .next t) : t.buf.wf := by
  obtain ⟨-, rfl⟩ | ⟨-, rfl⟩ | ⟨-, hc, -, rfl⟩ | ⟨-, -, -, f, rfl⟩ := execByteIn_cases h
  · exact Memory.write_wf hwf (by decide) b
  · exact Memory.write_wf hwf (by decide) b
  · exact Memory.write_wf hwf hc b
  · obtain ⟨rx, diag, hp⟩ := State.present_classifyAmong s.dropFrame f s.registry Kind.all
    rw [classify, hp]
    exact Memory.dropFrame_wf s

/-- Settles O54: BYTE_IN stores inside 0..17 or empties BUF, SOURCE_CLOSED and CANCEL empty it or keep it, and no other
instruction writes it. -/
theorem bufStaysCanonical : Obligations.BufStaysCanonical := by
  intro i s t hwf h
  cases hi : receives i with
  | false =>
    obtain ⟨rx, tx, diag, fault, rfl⟩ := exec_frame_of_not_receives hi h
    exact hwf
  | true =>
    obtain ⟨b, rfl⟩ | rfl | rfl := receives_iff.1 hi
    · exact execByteIn_buf_wf hwf h
    · obtain ⟨-, rfl⟩ | ⟨-, rfl⟩ := execSourceClosed_cases h
      · exact hwf
      · exact Memory.dropFrame_wf s
    · cases h
      exact Memory.dropFrame_wf s

/-- Settles O55: reads are bounded by FA_COUNT, writes by 17, and a store reads back. -/
theorem bufAccessesStayInside : Obligations.BufAccessesStayInside := by
  refine fun s i b => ⟨fun h => ?_, fun h => ?_, fun h => ⟨_, State.bufWrite_eq_ok.2 ⟨h, rfl⟩, fun n hn => ?_⟩⟩
  · exact if_neg (Nat.not_lt.2 h)
  · exact if_neg (Nat.not_lt.2 h)
  · exact State.bufRead_stored (s := s) rfl hn

/-! ### The operand port -/

/-- The state with another operand record on the port. -/
def State.withOpnd (s : State) (o : Opnd) : State := { s with opnd := o }

theorem State.present_withOpnd (s : State) (o : Opnd) (f : Frame) (rep : Report) :
    (s.withOpnd o).present f rep = (s.present f rep).withOpnd o := by
  cases rep <;> rfl

/-- A classification does the same with another operand record on the port. -/
theorem classifyInto_withOpnd {ks : List Kind} {f : Frame} {s t : State} (o : Opnd)
    (h : classifyInto ks f s = .next t) : classifyInto ks f (s.withOpnd o) = .next (t.withOpnd o) := by
  unfold classifyInto at h ⊢
  split at h
  · next hfit =>
    cases h
    exact (if_pos hfit).trans (congrArg Host.Outcome.next (s.present_withOpnd o f _))
  · cases h

/-- The last byte of a frame answers a next state where the bytes before it are held and the frame is classified
(40_frame_assembler.md R103). -/
theorem completeFrame_eq_next {b : Byte} {s t : State} : completeFrame b s = .next t ↔
    ∃ held, s.bufReadPrefix (s.faLen.toNat - 1) = .ok held ∧
      classifyInto Kind.all (held ++ [b]) s.dropFrame = .next t := by
  unfold completeFrame
  split
  · next e he => simp [he]
  · next held hheld => simp [hheld]

theorem completeFrame_withOpnd {b : Byte} {s t : State} (o : Opnd) (h : completeFrame b s = .next t) :
    completeFrame b (s.withOpnd o) = .next (t.withOpnd o) := by
  obtain ⟨held, hheld, hclass⟩ := completeFrame_eq_next.1 h
  have hsame := State.bufReadPrefix_congr (s := s) (t := s.withOpnd o) (n := s.faLen.toNat - 1) fun _ _ => rfl
  exact completeFrame_eq_next.2 ⟨held, hsame.trans hheld, classifyInto_withOpnd o hclass⟩

/-- BYTE_IN does the same in each FA_STATE. -/
theorem execByteIn_withOpnd {b : Byte} {s t : State} (o : Opnd) (h : execByteIn b s = .next t) :
    execByteIn b (s.withOpnd o) = .next (t.withOpnd o) := by
  cases hs : s.faState with
  | sCmd =>
    rw [execByteIn_sCmd hs] at h
    cases h
    exact execByteIn_sCmd (s := s.withOpnd o) hs b
  | sAttr =>
    rw [execByteIn_sAttr hs] at h
    cases h
    exact execByteIn_sAttr (s := s.withOpnd o) hs b
  | sPayload =>
    by_cases hc : s.faCount.toNat < 18
    · by_cases hl : s.faCount.toNat + 1 = s.faLen.toNat
      · rw [execByteIn_sPayload_last hs hc hl] at h
        rw [execByteIn_sPayload_last (s := s.withOpnd o) hs hc hl]
        exact completeFrame_withOpnd o h
      · rw [execByteIn_sPayload_more hs hc hl] at h
        cases h
        exact execByteIn_sPayload_more (s := s.withOpnd o) hs hc hl b
    · rw [execByteIn_sPayload_full hs (Nat.le_of_not_lt hc)] at h
      cases h

/-- No instruction but ENCODE reads the operand record (30_encoding.md R71). -/
theorem exec_withOpnd {i : Instr} {s t : State} (o : Opnd) (hi : ¬ encodes i) (h : exec i s = .next t) :
    exec i (s.withOpnd o) = .next (t.withOpnd o) := by
  rcases instr_cases i with ⟨b, rfl⟩ | rfl | rfl | rfl | ⟨k, rfl⟩ | ⟨kind, rfl⟩ | hres | ⟨k, f, rfl⟩
  · exact execByteIn_withOpnd o h
  · by_cases hs : s.faState = .sCmd
    · rw [exec_sourceClosed_of_sCmd hs] at h
      cases h
      exact exec_sourceClosed_of_sCmd (s := s.withOpnd o) hs
    · rw [exec_sourceClosed_of_ne hs] at h
      cases h
      exact exec_sourceClosed_of_ne (s := s.withOpnd o) hs
  · cases h
    rfl
  · cases h
    rfl
  · exact absurd (.inr ⟨k, rfl⟩) hi
  · exact absurd (.inl ⟨kind, rfl⟩) hi
  · rw [exec_of_reserved hres] at h ⊢
    cases h
    rfl
  · rw [exec_decodeRow] at h ⊢
    exact classifyInto_withOpnd o h

/-- No instruction writes the operand port (10_state.md R30). -/
theorem exec_opnd {i : Instr} {s t : State} (h : exec i s = .next t) : t.opnd = s.opnd := by
  cases hi : receives i with
  | false =>
    obtain ⟨rx, tx, diag, fault, rfl⟩ := exec_frame_of_not_receives hi h
    rfl
  | true =>
    obtain ⟨b, rfl⟩ | rfl | rfl := receives_iff.1 hi
    · exact (execByteIn_ports h).1
    · obtain ⟨-, rfl⟩ | ⟨-, rfl⟩ := execSourceClosed_cases h <;> rfl
    · cases h
      rfl

/-- Settles O51: only ENCODE reads the port, and no instruction writes it. -/
theorem onlyEncodeReadsOpnd : Obligations.OnlyEncodeReadsOpnd := fun _ _ _ o hi h =>
  ⟨exec_opnd h, exec_withOpnd o hi h⟩

/-! ### NOP and ENCODE write the results only -/

theorem exec_withResults_of_nop_or_encRow {i : Instr} {s t : State} (hi : i = .nop ∨ ∃ k, i = encRow k)
    (h : exec i s = .next t) : ∃ rx tx diag, t = s.withResults rx tx diag := by
  obtain rfl | ⟨k, rfl⟩ := hi
  · cases h
    exact ⟨_, _, _, rfl⟩
  · rw [exec_encRow] at h
    cases h
    exact ⟨_, _, _, rfl⟩

/-- Settles O60: what they write is the results, which no instruction depends on. -/
theorem nopAndEncodeDisturbNothing : Obligations.NopAndEncodeDisturbNothing := by
  intro i j s t hi h
  obtain ⟨rx, tx, diag, rfl⟩ := exec_withResults_of_nop_or_encRow hi h
  exact ⟨exec_withResults j s rx tx diag, (exec_withResults i s rx tx diag).trans h⟩

/-! ### The helper-domain fault -/

/-- BITCOUNT2 has a value on its four arguments only (42_bit_helpers.md R140). -/
theorem bitcount2_table : bitcount2 0x0 = some 0 ∧ bitcount2 0x4 = some 1 ∧ bitcount2 0x8 = some 1 ∧
    bitcount2 0xC = some 2 ∧ ∀ x : Nibble, x ≠ 0x0 → x ≠ 0x4 → x ≠ 0x8 → x ≠ 0xC → bitcount2 x = none := by
  decide

theorem FaultReg.raise_illegalEvent_code {f : FaultReg} (h : f.code ≠ .helperDomain) :
    (f.raise .illegalEvent).code ≠ .helperDomain := by
  unfold FaultReg.raise
  split
  · exact h
  · nofun

/-- Settles O58: a step leaves FAULT, clears it, or raises the illegal-event fault. -/
theorem helperDomainFaultIsUnreachable : Obligations.HelperDomainFaultIsUnreachable := by
  refine ⟨bitcount2_table, fun s t hstep hs => ?_⟩
  obtain ⟨-, ⟨-, rfl⟩ | ⟨p, rest, -, ⟨-, rfl⟩ | ⟨-, hrun⟩⟩⟩ := step_cases hstep
  · exact hs
  · nofun
  · rcases runEvent_fault hrun with hf | hf
    · exact hf ▸ hs
    · exact hf ▸ FaultReg.raise_illegalEvent_code hs

end Sys2Proof.Machine
